-- ==== Sys2Proof/Word.lean ====
section
/-! DEFINITION. The word types of the unit: spec/00_scope.md R10 and R12 (bit `k` has weight `2^k`). -/

namespace Sys2Proof

/-- A register, a command word, a membrane potential, a sum or a count: 32 bits (R10). -/
abbrev Word := BitVec 32

/-- A threshold or a decay rate: 16 bits (R10). -/
abbrev Half := BitVec 16

/-- A byte of TMEM or of a spike buffer, a weight, a bias: 8 bits (R10, R54, R61). -/
abbrev Byte := BitVec 8

/-- A one-bit element of the array RF (R49). -/
abbrev Bit := BitVec 1

end Sys2Proof
end

