-- ==== Sys2Proof/Syntax.lean ====
section
/-! DEFINITION. The commands of the unit: one constructor per row of spec/30_encoding.md R84.
Operands are the unsigned values of their fields (R82). -/

namespace Sys2Proof

/-- The role operand R of the spike-buffer commands: 0 = A (current input), 1 = B (current output)
(spec/30_encoding.md R81, spec/41_spike_buffer.md R112). -/
inductive Role where
  | A
  | B
  deriving DecidableEq, Repr

/-- The 25 commands (R84).  Operand order follows the listing syntax of R87. -/
inductive Instr where
  /-- NOP: R155. -/
  | nop
  /-- SRST, the soft reset: R156. -/
  | srst
  /-- INIT: R157, R158. -/
  | init
  /-- ZERO (alias RESET, R88): R159. -/
  | zero
  /-- CLRCNT: R160. -/
  | clrcnt
  /-- QUANT: R100. -/
  | quant
  /-- DEQUANT: R101. -/
  | dequant
  /-- SBGET role, n, t: R113. -/
  | sbget (role : Role) (n t : Nat)
  /-- SBSET role, n, t, v: R114. -/
  | sbset (role : Role) (n t : Nat) (v : Bool)
  /-- SWAP: R115. -/
  | swap
  /-- LOADCH c, s: R116 (`k` is the sample index the spec calls s). -/
  | loadch (c k : Nat)
  /-- VCLR: R125. -/
  | vclr
  /-- VSCALE l: R126. -/
  | vscale (l : Nat)
  /-- VADD l: R127. -/
  | vadd (l : Nat)
  /-- VCMP l: R128. -/
  | vcmp (l : Nat)
  /-- VSUBT l: R129. -/
  | vsubt (l : Nat)
  /-- VPACK l, t: R130. -/
  | vpack (l t : Nat)
  /-- VBIAS l: R136. -/
  | vbias (l : Nat)
  /-- EVACC l, j: R137 to R140. -/
  | evacc (l j : Nat)
  /-- ACCUM l, t: R141. -/
  | accum (l t : Nat)
  /-- LIFSTEP l, t: R145. -/
  | lifstep (l t : Nat)
  /-- LAYER l: R148. -/
  | layer (l : Nat)
  /-- COUNT c: R161. -/
  | count (c : Nat)
  /-- CLASSIFY: R162. -/
  | classify
  /-- RUN s: R163, R164 (`k` is the sample index the spec calls s). -/
  | run (k : Nat)
  deriving DecidableEq, Repr

end Sys2Proof
end

