-- ==== Sys2Proof/WellFormed.lean ====
section
/-! DEFINITION. Which commands have an encoding: every operand fits its field (spec/30_encoding.md R81, R82:
X in 0 .. 255, Y in 0 .. 65535). -/

namespace Sys2Proof

/-- An operand that fits the X field, `w[23:16]` (R82). -/
def fitsX (x : Nat) : Bool := decide (x < 256)

/-- An operand that fits the Y field, `w[15:0]` (R82). -/
def fitsY (y : Nat) : Bool := decide (y < 65536)

/-- Every operand of the command fits its field (R82). -/
def Instr.wf (i : Instr) : Bool :=
  match i with
  | .nop => true
  | .srst => true
  | .init => true
  | .zero => true
  | .clrcnt => true
  | .quant => true
  | .dequant => true
  | .sbget _ n t => fitsX t && fitsY n
  | .sbset _ n t _ => fitsX t && fitsY n
  | .swap => true
  | .loadch c k => fitsX c && fitsY k
  | .vclr => true
  | .vscale l => fitsX l
  | .vadd l => fitsX l
  | .vcmp l => fitsX l
  | .vsubt l => fitsX l
  | .vpack l t => fitsX l && fitsY t
  | .vbias l => fitsX l
  | .evacc l j => fitsX l && fitsY j
  | .accum l t => fitsX l && fitsY t
  | .lifstep l t => fitsX l && fitsY t
  | .layer l => fitsX l
  | .count c => fitsX c
  | .classify => true
  | .run k => fitsY k

end Sys2Proof
end

