-- ==== Sys2Proof/Decode.lean ====
section
/-! DEFINITION. Decoding and encoding of command words: spec/30_encoding.md R80 to R85, R87. -/

namespace Sys2Proof

/-- Why a word is no command (R85): both raise E_ILLCMD. -/
inductive DecodeError where
  /-- The OP value is not in the table: case (a) of R85. -/
  | unassignedOpcode
  /-- A listed OP with a non-zero bit in a field its format says is zero: case (b) of R85. -/
  | nonzeroField
  deriving DecidableEq, Repr

/-- OP = `w[31:24]` (R81). -/
def fieldOp (w : Word) : Nat := (w.extractLsb' 24 8).toNat

/-- X = `w[23:16]` (R81). -/
def fieldX (w : Word) : Nat := (w.extractLsb' 16 8).toNat

/-- Y = `w[15:0]` (R81). -/
def fieldY (w : Word) : Nat := (w.extractLsb' 0 16).toNat

/-- Format Z: no operand, X and Y must be zero (R81). -/
def formatZ (w : Word) (i : Instr) : Except DecodeError Instr :=
  if fieldX w = 0 ∧ fieldY w = 0 then .ok i else .error .nonzeroField

/-- Format X: the operand is X, Y must be zero (R81). -/
def formatX (w : Word) (i : Nat → Instr) : Except DecodeError Instr :=
  if fieldY w = 0 then .ok (i (fieldX w)) else .error .nonzeroField

/-- Format Y: the operand is Y, X must be zero (R81). -/
def formatY (w : Word) (i : Nat → Instr) : Except DecodeError Instr :=
  if fieldX w = 0 then .ok (i (fieldY w)) else .error .nonzeroField

/-- Formats XY and S: both X and Y are operands (R81); the role and value bits of S are bits of OP. -/
def formatXY (w : Word) (i : Nat → Nat → Instr) : Except DecodeError Instr :=
  .ok (i (fieldX w) (fieldY w))

/-- The opcode map of R84. -/
def decode (w : Word) : Except DecodeError Instr :=
  match fieldOp w with
  | 0x00 => formatZ w .nop
  | 0x01 => formatZ w .srst
  | 0x02 => formatZ w .init
  | 0x03 => formatZ w .zero
  | 0x04 => formatZ w .clrcnt
  | 0x08 => formatZ w .quant
  | 0x09 => formatZ w .dequant
  | 0x10 => formatXY w (fun x y => .sbget .A y x)
  | 0x11 => formatXY w (fun x y => .sbget .B y x)
  | 0x14 => formatXY w (fun x y => .sbset .A y x false)
  | 0x15 => formatXY w (fun x y => .sbset .B y x false)
  | 0x16 => formatXY w (fun x y => .sbset .A y x true)
  | 0x17 => formatXY w (fun x y => .sbset .B y x true)
  | 0x18 => formatZ w .swap
  | 0x19 => formatXY w .loadch
  | 0x20 => formatZ w .vclr
  | 0x21 => formatX w .vscale
  | 0x22 => formatX w .vadd
  | 0x23 => formatX w .vcmp
  | 0x24 => formatX w .vsubt
  | 0x25 => formatXY w .vpack
  | 0x28 => formatX w .vbias
  | 0x29 => formatXY w .evacc
  | 0x2A => formatXY w .accum
  | 0x30 => formatXY w .lifstep
  | 0x31 => formatX w .layer
  | 0x38 => formatX w .count
  | 0x39 => formatZ w .classify
  | 0x3A => formatY w .run
  | _ => .error .unassignedOpcode

/-- The word `OP[8] X[8] Y[16]` (R81). -/
def packWord (op x y : Nat) : Word := BitVec.ofNat 8 op ++ BitVec.ofNat 8 x ++ BitVec.ofNat 16 y

/-- The role bit R, the low bit of OP (R81). -/
def roleBit (r : Role) : Nat :=
  match r with
  | .A => 0
  | .B => 1

/-- The value bit V, bit 1 of OP (R81), as its weight in OP. -/
def valueBit (v : Bool) : Nat := if v then 2 else 0

/-- The OP byte of a command (R84). -/
def opOf (i : Instr) : Nat :=
  match i with
  | .nop => 0x00
  | .srst => 0x01
  | .init => 0x02
  | .zero => 0x03
  | .clrcnt => 0x04
  | .quant => 0x08
  | .dequant => 0x09
  | .sbget r _ _ => 0x10 + roleBit r
  | .sbset r _ _ v => 0x14 + valueBit v + roleBit r
  | .swap => 0x18
  | .loadch _ _ => 0x19
  | .vclr => 0x20
  | .vscale _ => 0x21
  | .vadd _ => 0x22
  | .vcmp _ => 0x23
  | .vsubt _ => 0x24
  | .vpack _ _ => 0x25
  | .vbias _ => 0x28
  | .evacc _ _ => 0x29
  | .accum _ _ => 0x2A
  | .lifstep _ _ => 0x30
  | .layer _ => 0x31
  | .count _ => 0x38
  | .classify => 0x39
  | .run _ => 0x3A

/-- The X field of a command (the "Field use" lines of R84). -/
def xOf (i : Instr) : Nat :=
  match i with
  | .nop => 0
  | .srst => 0
  | .init => 0
  | .zero => 0
  | .clrcnt => 0
  | .quant => 0
  | .dequant => 0
  | .sbget _ _ t => t
  | .sbset _ _ t _ => t
  | .swap => 0
  | .loadch c _ => c
  | .vclr => 0
  | .vscale l => l
  | .vadd l => l
  | .vcmp l => l
  | .vsubt l => l
  | .vpack l _ => l
  | .vbias l => l
  | .evacc l _ => l
  | .accum l _ => l
  | .lifstep l _ => l
  | .layer l => l
  | .count c => c
  | .classify => 0
  | .run _ => 0

/-- The Y field of a command (the "Field use" lines of R84). -/
def yOf (i : Instr) : Nat :=
  match i with
  | .nop => 0
  | .srst => 0
  | .init => 0
  | .zero => 0
  | .clrcnt => 0
  | .quant => 0
  | .dequant => 0
  | .sbget _ n _ => n
  | .sbset _ n _ _ => n
  | .swap => 0
  | .loadch _ k => k
  | .vclr => 0
  | .vscale _ => 0
  | .vadd _ => 0
  | .vcmp _ => 0
  | .vsubt _ => 0
  | .vpack _ t => t
  | .vbias _ => 0
  | .evacc _ j => j
  | .accum _ t => t
  | .lifstep _ t => t
  | .layer _ => 0
  | .count _ => 0
  | .classify => 0
  | .run k => k

/-- The command word of a command (R81, R84). -/
def encode (i : Instr) : Word := packWord (opOf i) (xOf i) (yOf i)

/-- The mnemonic of a command, as spec/opcode_table.json has it (R84, R87). -/
def mnemonicOf (i : Instr) : String :=
  match i with
  | .nop => "NOP"
  | .srst => "SRST"
  | .init => "INIT"
  | .zero => "ZERO"
  | .clrcnt => "CLRCNT"
  | .quant => "QUANT"
  | .dequant => "DEQUANT"
  | .sbget _ _ _ => "SBGET"
  | .sbset _ _ _ _ => "SBSET"
  | .swap => "SWAP"
  | .loadch _ _ => "LOADCH"
  | .vclr => "VCLR"
  | .vscale _ => "VSCALE"
  | .vadd _ => "VADD"
  | .vcmp _ => "VCMP"
  | .vsubt _ => "VSUBT"
  | .vpack _ _ => "VPACK"
  | .vbias _ => "VBIAS"
  | .evacc _ _ => "EVACC"
  | .accum _ _ => "ACCUM"
  | .lifstep _ _ => "LIFSTEP"
  | .layer _ => "LAYER"
  | .count _ => "COUNT"
  | .classify => "CLASSIFY"
  | .run _ => "RUN"

/-- The role operand in a listing: the letter `A` or `B` (R87). -/
def roleLetter (r : Role) : String :=
  match r with
  | .A => "A"
  | .B => "B"

/-- The operands of a listing line, in the order of R87, numbers in decimal. -/
def listingOperands (i : Instr) : List String :=
  match i with
  | .nop => []
  | .srst => []
  | .init => []
  | .zero => []
  | .clrcnt => []
  | .quant => []
  | .dequant => []
  | .sbget r n t => [roleLetter r, toString n, toString t]
  | .sbset r n t v => [roleLetter r, toString n, toString t, if v then "1" else "0"]
  | .swap => []
  | .loadch c k => [toString c, toString k]
  | .vclr => []
  | .vscale l => [toString l]
  | .vadd l => [toString l]
  | .vcmp l => [toString l]
  | .vsubt l => [toString l]
  | .vpack l t => [toString l, toString t]
  | .vbias l => [toString l]
  | .evacc l j => [toString l, toString j]
  | .accum l t => [toString l, toString t]
  | .lifstep l t => [toString l, toString t]
  | .layer l => [toString l]
  | .count c => [toString c]
  | .classify => []
  | .run k => [toString k]

/-- A command as a listing line: mnemonic in capitals, operands separated by commas (R87). -/
def listing (i : Instr) : String :=
  match listingOperands i with
  | [] => mnemonicOf i
  | ops => mnemonicOf i ++ " " ++ String.intercalate ", " ops

/-- A row of the opcode map: `w` is the command iff `w &&& mask = pattern` (R84). -/
structure OpcodeRow where
  mnemonic : String
  pattern : Word
  mask : Word
  deriving DecidableEq, Repr

/-- The `match` and `mask` columns of R84, transcribed row by row. -/
def opcodeTable : List OpcodeRow :=
  [ ⟨"NOP", 0x00000000, 0xFFFFFFFF⟩, ⟨"SRST", 0x01000000, 0xFFFFFFFF⟩,
    ⟨"INIT", 0x02000000, 0xFFFFFFFF⟩, ⟨"ZERO", 0x03000000, 0xFFFFFFFF⟩,
    ⟨"CLRCNT", 0x04000000, 0xFFFFFFFF⟩, ⟨"QUANT", 0x08000000, 0xFFFFFFFF⟩,
    ⟨"DEQUANT", 0x09000000, 0xFFFFFFFF⟩, ⟨"SBGET", 0x10000000, 0xFE000000⟩,
    ⟨"SBSET", 0x14000000, 0xFC000000⟩, ⟨"SWAP", 0x18000000, 0xFFFFFFFF⟩,
    ⟨"LOADCH", 0x19000000, 0xFF000000⟩, ⟨"VCLR", 0x20000000, 0xFFFFFFFF⟩,
    ⟨"VSCALE", 0x21000000, 0xFF00FFFF⟩, ⟨"VADD", 0x22000000, 0xFF00FFFF⟩,
    ⟨"VCMP", 0x23000000, 0xFF00FFFF⟩, ⟨"VSUBT", 0x24000000, 0xFF00FFFF⟩,
    ⟨"VPACK", 0x25000000, 0xFF000000⟩, ⟨"VBIAS", 0x28000000, 0xFF00FFFF⟩,
    ⟨"EVACC", 0x29000000, 0xFF000000⟩, ⟨"ACCUM", 0x2A000000, 0xFF000000⟩,
    ⟨"LIFSTEP", 0x30000000, 0xFF000000⟩, ⟨"LAYER", 0x31000000, 0xFF00FFFF⟩,
    ⟨"COUNT", 0x38000000, 0xFF00FFFF⟩, ⟨"CLASSIFY", 0x39000000, 0xFFFFFFFF⟩,
    ⟨"RUN", 0x3A000000, 0xFFFF0000⟩ ]

/-- The command word of a table row's bits: bit 0 of `w` is bit 0 of the 32-bit word, the bits above `nbits`
are zero.  A command is exactly one 32-bit word (R80), handed over as one register value (R64). -/
def tableWord (nbits w : Nat) : Word := BitVec.ofNat 32 (w % 2 ^ nbits)

/-- What the decoder reads from a row of spec/opcode_table.json; `none` where it refuses. -/
def decodeTableWord (nbits w : Nat) : Option Instr :=
  match decode (tableWord nbits w) with
  | .ok i => some i
  | .error _ => none

end Sys2Proof
end

