-- ==== Sys2Proof/Config.lean ====
section
/-! DEFINITION. What an implementation fixes (spec/00_scope.md R5 to R9) and the one free value of the model. -/

namespace Sys2Proof

/-- The implementation parameters of spec/00_scope.md R5 to R9.  The spec leaves every value OPEN, "a model
argument".  They are held in a field of `Machine.State` that no step changes, so a statement about every state
is a statement about every parameter set (log entry 1). -/
structure Params where
  /-- TAU, the number of timesteps in a chunk (R5). -/
  tau : Nat
  /-- TIME_WINDOW, the number of absolute timesteps in one inference (R6). -/
  timeWindow : Nat
  /-- MAX_NEURONS (R7). -/
  maxNeurons : Nat
  /-- MAX_LAYERS (R8). -/
  maxLayers : Nat
  /-- ONE_SPIKE_CONTRIBUTION, a signed 32-bit integer (R9); PARAM2 is this very word (R37). -/
  oneSpike : Word
  deriving DecidableEq, Repr

namespace Params

/-- NCHUNKS = TIME_WINDOW / TAU (R6). -/
def nChunks (p : Params) : Nat := p.timeWindow / p.tau

/-- ROW_BYTES = ceil(MAX_NEURONS / 8) (R7). -/
def rowBytes (p : Params) : Nat := (p.maxNeurons + 7) / 8

/-- The bounds of R5 to R8; "a parameter set that breaks this is not a configuration of this hardware" (R6). -/
abbrev Valid (p : Params) : Prop :=
  (1 ≤ p.tau ∧ p.tau ≤ 256) ∧
  (p.timeWindow % p.tau = 0 ∧ 1 ≤ p.nChunks ∧ p.nChunks ≤ 256) ∧
  (1 ≤ p.maxNeurons ∧ p.maxNeurons ≤ 65536) ∧
  (1 ≤ p.maxLayers ∧ p.maxLayers ≤ 256)

end Params

namespace Config

/-- DESIGN CHOICE (log entry 1): the parameter set of `State.reset`, the test configuration CFG-T of
spec/95_test_vectors.md.  Statements range over every parameter set instead of resting on this one. -/
def params : Params :=
  { tau := 2, timeWindow := 4, maxNeurons := 16, maxLayers := 4, oneSpike := 128 }

/-- FREE VALUE (log entry 4): which of the bytes that stood at a TMEM address while BUSY = 1 the read numbered
`k` returns (spec/20_memory.md R76, spec/93_implementation_defined.md U7).  No body: nothing can be proved of it. -/
opaque tornChoice : Nat → Nat

end Config

end Sys2Proof
end

