-- ==== Sys2Proof/Machine/State.lean ====
section
/-! DEFINITION. The state of the unit as plain data (spec/10_state.md R20 to R58), the two agents' pending
transactions (spec/30_encoding.md R83, R89), the reasons a step can stop, and the state after reset
(spec/70_reset_and_hazards.md R190 to R192). -/

namespace Sys2Proof.Machine

/-- One of the two physical spike buffers SB[0], SB[1] (R54). -/
inductive Buf where
  | sb0
  | sb1
  deriving DecidableEq, Repr

/-- The seven error codes of spec/60_exceptions.md R171. -/
inductive ErrKind where
  /-- Code 1, E_CFG: a configuration check of INIT fails (R172). -/
  | cfg
  /-- Code 2, E_IDX: an index operand is out of range (R173). -/
  | idx
  /-- Code 3, E_ILLCMD: a word that is no command (R174). -/
  | illcmd
  /-- Code 4, E_STATE: a command the present state does not allow (R175). -/
  | state
  /-- Code 5, E_ACCESS: a refused register transaction (R176). -/
  | access
  /-- Code 6, E_NAN: QUANT of a NaN (R177). -/
  | nan
  /-- Code 7, E_MEM: a source address not below 2^32 (R178). -/
  | mem
  deriving DecidableEq, Repr

/-- An error with the information word it is raised with (R181). -/
structure ErrRecord where
  kind : ErrKind
  info : Word
  deriving DecidableEq, Repr

/-- The fields of STATUS (R23); its reserved bits hold no state.  `sel` is the physical buffer in role A. -/
structure Status where
  busy : Bool
  configured : Bool
  fatal : Bool
  sel : Buf
  eCfg : Bool
  eIdx : Bool
  eIllcmd : Bool
  eState : Bool
  eAccess : Bool
  eNan : Bool
  eMem : Bool
  ovf : Bool
  deriving DecidableEq, Repr

/-- STATUS after reset: 0x0000_0000 (R23, R191). -/
def Status.zero : Status :=
  { busy := false, configured := false, fatal := false, sel := .sb0, eCfg := false, eIdx := false,
    eIllcmd := false, eState := false, eAccess := false, eNan := false, eMem := false, ovf := false }

/-- One layer descriptor: the defined bits of its eight registers (R38 to R46).  Reserved bits hold no state. -/
structure LayerDesc where
  /-- LKIND.KIND (R39). -/
  kind : BitVec 2
  /-- LNEUR.NEUR (R40). -/
  neur : BitVec 17
  /-- LTHR.THR (R41). -/
  thr : Half
  /-- LDECAY.DECAY (R42). -/
  decay : Half
  /-- LWBASE (R43). -/
  wbase : Word
  /-- LBBASE (R44). -/
  bbase : Word
  /-- LGEOM.IN_SIDE, bits 15:0 (R45). -/
  inSide : Half
  /-- LGEOM.K, bits 31:16 (R45). -/
  kSide : Half
  /-- LFILT.F (R46). -/
  filt : BitVec 17
  deriving DecidableEq, Repr

/-- A descriptor after reset: all eight registers 0 (R38, R191). -/
def LayerDesc.zero : LayerDesc :=
  { kind := 0, neur := 0, thr := 0, decay := 0, wbase := 0, bbase := 0, inSide := 0, kSide := 0, filt := 0 }

/-- The registers of R58 that hold state.  ID and PARAM0 to PARAM2 are constants, ADATA has no storage. -/
structure Regs where
  /-- STATUS (R23). -/
  status : Status
  /-- ERRCODE, bits 7:0 (R24). -/
  errcode : Byte
  /-- ERRINFO (R25). -/
  errinfo : Word
  /-- CMD, the last accepted command word (R26). -/
  cmd : Word
  /-- CTRL.IF_MODE (R27). -/
  ifMode : Bool
  /-- NLAYERS, bits 8:0 (R28). -/
  nlayers : BitVec 9
  /-- SRC_BASE (R29). -/
  srcBase : Word
  /-- CODEC_IN (R30). -/
  codecIn : Word
  /-- CODEC_OUT (R31). -/
  codecOut : Word
  /-- BITRES, bit 0 (R32). -/
  bitres : Bool
  /-- RESULT (R33). -/
  result : Word
  /-- ASEL.ARR, bits 3:0 (R34). -/
  aselArr : BitVec 4
  /-- ASEL.LAYER, bits 15:8 (R34). -/
  aselLayer : Byte
  /-- AIDX (R35). -/
  aidx : Word
  /-- The descriptors L[0 .. MAX_LAYERS - 1] (R38). -/
  layers : List LayerDesc
  deriving DecidableEq, Repr

/-- The reset value of every register (R191), which SRST gives too (R156, R193). -/
def Regs.reset (maxLayers : Nat) : Regs :=
  { status := .zero, errcode := 0, errinfo := 0, cmd := 0, ifMode := false, nlayers := 0, srcBase := 0,
    codecIn := 0, codecOut := 0, bitres := false, result := 0x80000000, aselArr := 0, aselLayer := 0,
    aidx := 0, layers := List.replicate maxLayers .zero }

/-- A sparse table: keys strictly rising, no element equal to 0, which is what an unlisted key reads as
(log entries 2 and 3). -/
abbrev Cells (κ : Type) (w : Nat) := List (κ × BitVec w)

/-- A two-index array of the unit: the key `(row, column)` is `(l, i)`, `(i, c)` or `(t, b)`; SUM uses row 0. -/
abbrev Table (w : Nat) := Cells (Nat × Nat) w

/-- The arrays of R48 to R54. -/
structure Arrays where
  /-- V[l][i] (R48). -/
  v : Table 32
  /-- RF[l][i] (R49). -/
  rf : Table 1
  /-- TH[l][i] (R50). -/
  th : Table 16
  /-- DK[l][i] (R51). -/
  dk : Table 16
  /-- SUM[i] (R52). -/
  sum : Table 32
  /-- COUNTS[i][c] (R53). -/
  counts : Table 32
  /-- SB[0][t][b] (R54). -/
  sb0 : Table 8
  /-- SB[1][t][b] (R54). -/
  sb1 : Table 8
  deriving DecidableEq, Repr

/-- Every element 0. -/
def Arrays.zero : Arrays :=
  { v := [], rf := [], th := [], dk := [], sum := [], counts := [], sb0 := [], sb1 := [] }

/-- What happens next at the unit's ports: the host's transactions (R21), the unit's own `Complete` step (R89),
the platform's reset input (R190) and the platform's changes of TMEM (R61, R76).  Completion takes any finite
time (R201, U12): the place of `complete` among the host's transactions says when it is taken. -/
inductive Input where
  /-- `RegRead(off)` with an access of `width` bits (R21). -/
  | regRead (off width : Nat)
  /-- `RegWrite(off, v)` with an access of `width` bits (R21). -/
  | regWrite (off width : Nat) (v : Word)
  /-- A listing line (R87): `RegWrite(CMD, w)`, and when `w` is accepted the `Complete` step right after it. -/
  | command (w : Word)
  /-- The unit takes its `Complete` step if it is enabled (R89). -/
  | complete
  /-- The hardware reset; the arrays are left with the unspecified contents `a` (R190, R192). -/
  | hwReset (a : Arrays)
  /-- The platform stores a byte in TMEM (R61). -/
  | tmemWrite (addr : Word) (b : Byte)
  deriving DecidableEq, Repr

/-- The whole machine.  `regs` and `arr` are the state of R20.  The rest is the model's own: the parameters
(R5 to R9), the platform's memory TMEM (R61), the value on the read port, and the inputs still to come. -/
structure State where
  /-- The implementation parameters; no step changes them. -/
  params : Params
  /-- The registers (R58, R191). -/
  regs : Regs
  /-- The arrays (R48 to R54). -/
  arr : Arrays
  /-- TMEM (R61): the listed bytes; an unlisted address reads 0 (log entry 3). -/
  tmem : List Host.Cell
  /-- The bytes the platform replaced since the running command was accepted (R76, U7). -/
  stale : List Host.Cell
  /-- How many free choices of a replaced byte have been drawn (log entry 4). -/
  draws : Nat
  /-- The value the last `RegRead` returned (R21). -/
  rdata : Word
  /-- The inputs still to come, the next one first. -/
  inputs : List Input
  deriving DecidableEq, Repr

/-- A step that stops. -/
inductive Fault where
  /-- Raised by the `Complete` step when BUSY = 1 and CMD holds a word that is no command.  The spec gives no
  behaviour there, and no run reaches it: BUSY is set by acceptance only, which writes a command word into CMD
  (R26, R89).  Safe. -/
  | noCommandToComplete
  deriving DecidableEq, Repr

/-- A step the model does not give. -/
inductive Refusal where
  /-- Raised by `exec` for a command that has no meaning yet; no arm of this model does.  Safe. -/
  | notModelled (mnemonic : String)
  deriving DecidableEq, Repr

/-- The machine right after the hardware reset, for any parameters, any array contents (R192: "a model must
treat each as an arbitrary value") and any TMEM contents. -/
def State.afterReset (p : Params) (a : Arrays) (m : List Host.Cell) : State :=
  { params := p, regs := .reset p.maxLayers, arr := a, tmem := m, stale := [], draws := 0, rdata := 0,
    inputs := [] }

/-- The machine right after reset: `State.afterReset` at the parameters of log entry 1, with the array contents
of log entry 2 and the TMEM contents of log entry 3 (DESIGN CHOICES; statements range over all of them). -/
def State.reset : State := .afterReset Config.params .zero []

end Sys2Proof.Machine
end

