-- ==== Sys2Proof/Machine/Flags.lean ====
section
/-! DEFINITION. The lane functions of the ALU with the overflow each computes (spec/42_alu.md R121 to R124), the
flags of STATUS and the word it reads as (spec/10_state.md R23). -/

namespace Sys2Proof.Machine

/-- `wrap32` (spec/00_scope.md R12) as a register image: the low 32 bits of the exact result. -/
def wrap32 (r : Int) : Word := BitVec.ofInt 32 r

/-- The exact result does not fit 32 bits signed: the condition that sets OVF in R121 and R122. -/
def overflows (r : Int) : Bool := decide (r < -2147483648 ∨ 2147483647 < r)

/-- `add32` (R121): the wrapped sum, and whether OVF is set. -/
def add32 (a b : Int) : Word × Bool := (wrap32 (a + b), overflows (a + b))

/-- The exact result of `scale32` before it is narrowed: `floor(v * d / 128)` (R122). -/
def scaleExact (v d : Int) : Int := (v * d) / 128

/-- `scale32` (R122): the wrapped result, and whether OVF is set. -/
def scale32 (v d : Int) : Word × Bool := (wrap32 (scaleExact v d), overflows (scaleExact v d))

/-- `cmp_ge` (R123): greater or equal, as integers. -/
def cmpGe (v th : Int) : Bool := decide (th ≤ v)

/-- `pack8` (R124): flag `k` lands in bit `k`. -/
def pack8 (f : Nat → Bool) : Byte :=
  (List.range 8).foldl (fun b k => if f k then b ||| (1#8 <<< k) else b) 0

/-- The code of an error (spec/60_exceptions.md R171). -/
def errCode (k : ErrKind) : Byte :=
  match k with
  | .cfg => 1
  | .idx => 2
  | .illcmd => 3
  | .state => 4
  | .access => 5
  | .nan => 6
  | .mem => 7

/-- Set the sticky flag of an error code, bit 7 + code of STATUS (R171, R181). -/
def setErrFlag (k : ErrKind) (st : Status) : Status :=
  match k with
  | .cfg => { st with eCfg := true }
  | .idx => { st with eIdx := true }
  | .illcmd => { st with eIllcmd := true }
  | .state => { st with eState := true }
  | .access => { st with eAccess := true }
  | .nan => { st with eNan := true }
  | .mem => { st with eMem := true }

/-- The sticky flag of an error code. -/
def errFlag (k : ErrKind) (st : Status) : Bool :=
  match k with
  | .cfg => st.eCfg
  | .idx => st.eIdx
  | .illcmd => st.eIllcmd
  | .state => st.eState
  | .access => st.eAccess
  | .nan => st.eNan
  | .mem => st.eMem

/-- A word with one bit at position `k`. -/
def bitAt (k : Nat) (b : Bool) : Word := if b then 1#32 <<< k else 0

/-- The index of a physical buffer as the SEL bit shows it (R23). -/
def bufBit (k : Buf) : Bool :=
  match k with
  | .sb0 => false
  | .sb1 => true

/-- What STATUS reads (R23). -/
def statusWord (st : Status) : Word :=
  bitAt 0 st.busy ||| bitAt 1 st.configured ||| bitAt 2 st.fatal ||| bitAt 3 (bufBit st.sel) |||
  bitAt 8 st.eCfg ||| bitAt 9 st.eIdx ||| bitAt 10 st.eIllcmd ||| bitAt 11 st.eState |||
  bitAt 12 st.eAccess ||| bitAt 13 st.eNan ||| bitAt 14 st.eMem ||| bitAt 16 st.ovf

end Sys2Proof.Machine
end

