-- ==== Sys2Proof/Machine/Table.lean ====
section
/-! DEFINITION. Reading and writing a sparse table in its canonical form: keys strictly rising, no zero element. -/

namespace Sys2Proof.Machine

/-- The order of TMEM addresses. -/
def addrLt (a b : Nat) : Bool := decide (a < b)

/-- The order of array keys: by row, then by column. -/
def pairLt (a b : Nat × Nat) : Bool := decide (a.1 < b.1) || (decide (a.1 = b.1) && decide (a.2 < b.2))

/-- The element at a key; an unlisted key reads 0 (log entries 2 and 3). -/
def cellGet {κ : Type} [DecidableEq κ] {w : Nat} (t : Cells κ w) (k : κ) : BitVec w :=
  match t with
  | [] => 0
  | c :: t => if c.1 = k then c.2 else cellGet t k

/-- List a key at its place, replacing what it held. -/
def cellInsert {κ : Type} [DecidableEq κ] {w : Nat} (lt : κ → κ → Bool) (k : κ) (x : BitVec w)
    (t : Cells κ w) : Cells κ w :=
  match t with
  | [] => [(k, x)]
  | c :: t =>
    if c.1 = k then (k, x) :: t
    else if lt k c.1 then (k, x) :: c :: t
    else c :: cellInsert lt k x t

/-- Store an element; storing 0 unlists the key. -/
def cellSet {κ : Type} [DecidableEq κ] {w : Nat} (lt : κ → κ → Bool) (k : κ) (x : BitVec w)
    (t : Cells κ w) : Cells κ w :=
  if x = 0 then t.filter (fun c => decide (c.1 ≠ k)) else cellInsert lt k x t

/-- Canonical form of an array: keys strictly rising, no element equal to what an unlisted key reads as. -/
abbrev TableWf {w : Nat} (t : Table w) : Prop :=
  t.Pairwise (fun a b => pairLt a.1 b.1 = true) ∧ ∀ c ∈ t, c.2 ≠ 0

/-- Canonical form of TMEM: addresses strictly rising and below 2^32 (R61), no byte equal to what an unlisted
address reads as. -/
abbrev Memory.wf (m : List Host.Cell) : Prop :=
  m.Pairwise (fun a b => addrLt a.1 b.1 = true) ∧ ∀ c ∈ m, c.2 ≠ 0 ∧ c.1 < 2 ^ 32

/-- Canonical form of all eight arrays. -/
abbrev ArraysWf (a : Arrays) : Prop :=
  TableWf a.v ∧ TableWf a.rf ∧ TableWf a.th ∧ TableWf a.dk ∧ TableWf a.sum ∧ TableWf a.counts ∧
  TableWf a.sb0 ∧ TableWf a.sb1

end Sys2Proof.Machine
end

