-- ==== Sys2Proof/Machine/Ops.lean ====
section
/-! DEFINITION. The named operations over registers, arrays and TMEM, and the one operation that takes an
exception (spec/60_exceptions.md R181) with the return from one beside it (R183). -/

namespace Sys2Proof.Machine

/-! ### Array elements (spec/10_state.md R48 to R54) -/

/-- V[l][i] (R48). -/
def State.vAt (s : State) (l i : Nat) : Word := cellGet s.arr.v (l, i)

/-- RF[l][i] (R49). -/
def State.rfAt (s : State) (l i : Nat) : Bit := cellGet s.arr.rf (l, i)

/-- TH[l][i] (R50). -/
def State.thAt (s : State) (l i : Nat) : Half := cellGet s.arr.th (l, i)

/-- DK[l][i] (R51). -/
def State.dkAt (s : State) (l i : Nat) : Half := cellGet s.arr.dk (l, i)

/-- SUM[i] (R52). -/
def State.sumAt (s : State) (i : Nat) : Word := cellGet s.arr.sum (0, i)

/-- COUNTS[i][c] (R53). -/
def State.countAt (s : State) (i c : Nat) : Word := cellGet s.arr.counts (i, c)

/-- SB[k][t][b] (R54). -/
def State.sbAt (s : State) (k : Buf) (t b : Nat) : Byte :=
  match k with
  | .sb0 => cellGet s.arr.sb0 (t, b)
  | .sb1 => cellGet s.arr.sb1 (t, b)

/-- `V[l][i] <- x` (R48). -/
def State.setV (s : State) (l i : Nat) (x : Word) : State := { s with arr.v := cellSet pairLt (l, i) x s.arr.v }

/-- `RF[l][i] <- x` (R49). -/
def State.setRf (s : State) (l i : Nat) (x : Bit) : State := { s with arr.rf := cellSet pairLt (l, i) x s.arr.rf }

/-- `TH[l][i] <- x` (R50). -/
def State.setTh (s : State) (l i : Nat) (x : Half) : State := { s with arr.th := cellSet pairLt (l, i) x s.arr.th }

/-- `DK[l][i] <- x` (R51). -/
def State.setDk (s : State) (l i : Nat) (x : Half) : State := { s with arr.dk := cellSet pairLt (l, i) x s.arr.dk }

/-- `SUM[i] <- x` (R52). -/
def State.setSum (s : State) (i : Nat) (x : Word) : State :=
  { s with arr.sum := cellSet pairLt (0, i) x s.arr.sum }

/-- `COUNTS[i][c] <- x` (R53). -/
def State.setCount (s : State) (i c : Nat) (x : Word) : State :=
  { s with arr.counts := cellSet pairLt (i, c) x s.arr.counts }

/-- `SB[k][t][b] <- x` (R54). -/
def State.setSb (s : State) (k : Buf) (t b : Nat) (x : Byte) : State :=
  match k with
  | .sb0 => { s with arr.sb0 := cellSet pairLt (t, b) x s.arr.sb0 }
  | .sb1 => { s with arr.sb1 := cellSet pairLt (t, b) x s.arr.sb1 }

/-- OR a wrap into the sticky flag OVF (R23, spec/42_alu.md R120). -/
def State.orOvf (s : State) (o : Bool) : State :=
  { s with regs.status.ovf := s.regs.status.ovf || o }

/-! ### Spike-buffer bits (spec/41_spike_buffer.md R110, R111) -/

/-- `sb_get(k, n, t)` (R110). -/
def State.sbGet (s : State) (k : Buf) (n t : Nat) : Bool := (s.sbAt k t (n / 8)).getLsbD (n % 8)

/-- The byte `b` with its bit `j` set to `x` (R111). -/
def putBit (b : Byte) (j : Nat) (x : Bool) : Byte :=
  if x then b ||| (1#8 <<< j) else b &&& ~~~(1#8 <<< j)

/-- `sb_set(k, n, t, x)` (R111). -/
def State.sbSet (s : State) (k : Buf) (n t : Nat) (x : Bool) : State :=
  s.setSb k t (n / 8) (putBit (s.sbAt k t (n / 8)) (n % 8) x)

/-! ### TMEM (spec/20_memory.md R61 to R63, R76) -/

/-- The byte that stands at a TMEM address now (R61). -/
def State.tmemAt (s : State) (a : Nat) : Byte := cellGet s.tmem a

/-- The bytes that stood at an address earlier while the running command was BUSY (R76). -/
def State.staleAt (s : State) (a : Nat) : List Byte := (s.stale.filter (fun c => decide (c.1 = a))).map Prod.snd

/-- `MemRead(a, 1)` (R61), a fresh read each time (R63).  An address whose byte the platform changed while
BUSY = 1 returns an old or the new byte, and which one is a free value (R76, U7; log entry 4). -/
def State.memRead (s : State) (a : Nat) : Byte × State :=
  match s.staleAt a with
  | [] => (s.tmemAt a, s)
  | old :: olds =>
    ((s.tmemAt a :: old :: olds).getD (Config.tornChoice s.draws % (olds.length + 2)) 0,
      { s with draws := s.draws + 1 })

/-- The platform stores a byte in TMEM (R61).  While BUSY = 1 the byte it replaces is remembered (R76). -/
def platformStore (a : Word) (b : Byte) (s : State) : State :=
  { s with
    tmem := cellSet addrLt a.toNat b s.tmem
    stale := if s.regs.status.busy then (a.toNat, s.tmemAt a.toNat) :: s.stale else s.stale }

/-! ### Vector operations over lanes (spec/42_alu.md R120, R131) -/

/-- `V[l][i] <- r` with OVF OR-ed in, for each lane `i < n` whose result `f i` is given; a lane without a result
is not written.  Lanes do not interact (R120): `f` sees the state before the command. -/
def mapLanes (l n : Nat) (f : Nat → Option (Word × Bool)) (s : State) : State :=
  (List.range n).foldl
    (fun s i =>
      match f i with
      | some r => (s.setV l i r.1).orOvf r.2
      | none => s) s

/-- `SUM[i] <- sext_8(MemRead(a))` for each `(i, a)` in turn (spec/43_accumulate.md R136). -/
def loadSums (targets : List (Nat × Nat)) (s : State) : State :=
  targets.foldl (fun s p => ((s.memRead p.2).2).setSum p.1 ((s.memRead p.2).1.signExtend 32)) s

/-- `SUM[i] <- add32(SUM[i], x)`, setting OVF on a wrap (spec/42_alu.md R121). -/
def addSum (i : Nat) (x : Int) (s : State) : State :=
  (s.setSum i (add32 (s.sumAt i).toInt x).1).orOvf (add32 (s.sumAt i).toInt x).2

/-- `SUM[i] <- add32(SUM[i], sext_8(MemRead(a)))` for each `(i, a)` in turn (spec/43_accumulate.md R139, R140). -/
def accumulateSums (targets : List (Nat × Nat)) (s : State) : State :=
  targets.foldl (fun s p => addSum p.1 (s.memRead p.2).1.toInt (s.memRead p.2).2) s

/-! ### Taking an exception, and the way back (spec/60_exceptions.md R181 to R183) -/

/-- STATUS after `raise`: the sticky flag of the code, and FATAL for E_CFG (R181, R182). -/
def raiseStatus (k : ErrKind) (st : Status) : Status :=
  if k = .cfg then { setErrFlag k st with fatal := true } else setErrFlag k st

/-- `raise E_X(info)` (R181): the sticky flag; the first error since reset also writes ERRCODE and ERRINFO;
E_CFG sets FATAL; no other state changes.  Control goes nowhere: there is no saved pc and no handler. -/
def raise (e : ErrRecord) (s : State) : State :=
  { s with
    regs.status := raiseStatus e.kind s.regs.status
    regs.errcode := if s.regs.errcode = 0 then errCode e.kind else s.regs.errcode
    regs.errinfo := if s.regs.errcode = 0 then e.info else s.regs.errinfo }

/-- ERRINFO of E_ACCESS: `sub << 16 | off[15:0]` (R176). -/
def accessInfo (sub off : Nat) : Word := BitVec.ofNat 32 (sub * 65536 + off % 65536)

/-- E_ACCESS with its sub-cause (R176). -/
def accessError (sub off : Nat) : ErrRecord := { kind := .access, info := accessInfo sub off }

/-- There is no return instruction (R183): what clears the error record is SRST, which writes every register's
reset value and leaves the arrays alone (spec/45_pipeline.md R156, spec/70_reset_and_hazards.md R193). -/
def softReset (s : State) : State := { s with regs := .reset s.params.maxLayers }

/-- The hardware reset (spec/70_reset_and_hazards.md R190 to R193), in any state: every register takes its reset
value, a running command is abandoned, the arrays are left with unspecified contents `a`. -/
def hardReset (a : Arrays) (s : State) : State :=
  { s with regs := .reset s.params.maxLayers, arr := a, stale := [] }

/-! ### Acceptance and completion (spec/30_encoding.md R89) -/

/-- Step 8 of `Accept`: `CMD <- w; STATUS.BUSY <- 1`.  From here on TMEM must hold still (R76). -/
def latch (w : Word) (s : State) : State :=
  { s with regs.cmd := w, regs.status.busy := true, stale := [] }

/-- The end of `Complete`: `STATUS.BUSY <- 0`. -/
def finish (s : State) : State := { s with regs.status.busy := false, stale := [] }

end Sys2Proof.Machine
end

