-- ==== Sys2Proof/Machine/Operands.lean ====
section
/-! DEFINITION. What the operands of a command stand for: layers and their geometry, roles, table addresses
(spec/10_state.md R38 to R46, spec/20_memory.md R67 to R71, spec/41_spike_buffer.md R112, spec/43_accumulate.md
R135). -/

namespace Sys2Proof.Machine

/-- The layer kinds of R39. -/
inductive LayerKind where
  | input
  | conv
  | fullyConnected
  /-- Code 3: can be stored; INIT refuses it. -/
  | reserved
  deriving DecidableEq, Repr

/-- KIND: 0 = Input, 1 = Conv, 2 = FullyConnected, 3 = reserved (R39). -/
def kindOf (k : BitVec 2) : LayerKind :=
  if k = 0 then .input else if k = 1 then .conv else if k = 2 then .fullyConnected else .reserved

/-- The number of layers, NLAYERS (R28). -/
def State.nLayers (s : State) : Nat := s.regs.nlayers.toNat

/-- Descriptor `L[l]` (R38). -/
def State.desc (s : State) (l : Nat) : LayerDesc := s.regs.layers.getD l .zero

/-- `L[l].KIND` (R39). -/
def State.kind (s : State) (l : Nat) : LayerKind := kindOf (s.desc l).kind

/-- `n(l)`, the neuron count (R40). -/
def State.neurons (s : State) (l : Nat) : Nat := (s.desc l).neur.toNat

/-- `n_in(l)`, the number of inputs (R135). -/
def State.nIn (s : State) (l : Nat) : Nat := if l = 0 then s.neurons 0 else s.neurons (l - 1)

/-- The last layer, `NLAYERS - 1` (spec/45_pipeline.md R161). -/
def State.lastLayer (s : State) : Nat := s.nLayers - 1

/-- `LGEOM.IN_SIDE` (R45). -/
def State.inSide (s : State) (l : Nat) : Nat := (s.desc l).inSide.toNat

/-- `LGEOM.K` (R45). -/
def State.kSide (s : State) (l : Nat) : Nat := (s.desc l).kSide.toNat

/-- `LFILT.F` (R46). -/
def State.filters (s : State) (l : Nat) : Nat := (s.desc l).filt.toNat

/-- `OUT(l) = IN_SIDE - K + 1` (R45); INIT has checked `K <= IN_SIDE` (spec/45_pipeline.md R157 sub 6). -/
def State.outSide (s : State) (l : Nat) : Nat := s.inSide l - s.kSide l + 1

/-- `P = OUT * OUT` (spec/43_accumulate.md R136). -/
def State.plane (s : State) (l : Nat) : Nat := s.outSide l * s.outSide l

/-- `LWBASE` (R43). -/
def State.wbase (s : State) (l : Nat) : Nat := (s.desc l).wbase.toNat

/-- `LBBASE` (R44). -/
def State.bbase (s : State) (l : Nat) : Nat := (s.desc l).bbase.toNat

/-- The other physical buffer. -/
def otherBuf (k : Buf) : Buf :=
  match k with
  | .sb0 => .sb1
  | .sb1 => .sb0

/-- The physical buffer in a role: `A = STATUS.SEL`, `B = 1 - STATUS.SEL` (R112). -/
def State.roleBuf (s : State) (r : Role) : Buf :=
  match r with
  | .A => s.regs.status.sel
  | .B => otherBuf s.regs.status.sel

/-- The TMEM address of `Wfc(l, i, j)`: row-major with the neuron as the row (R67). -/
def State.fcWeightAddr (s : State) (l i j : Nat) : Nat := s.wbase l + i * s.nIn l + j

/-- The TMEM address of `Bfc(l, i)` (R68). -/
def State.fcBiasAddr (s : State) (l i : Nat) : Nat := s.bbase l + i

/-- The TMEM address of `Wcv(l, ky, kx, f)`: `ky` slow, then `kx`, then `f` (R69). -/
def State.convWeightAddr (s : State) (l ky kx f : Nat) : Nat :=
  s.wbase l + (ky * s.kSide l + kx) * s.filters l + f

/-- The TMEM address of `Bcv(l, f)` (R70). -/
def State.convBiasAddr (s : State) (l f : Nat) : Nat := s.bbase l + f

/-- `SRC_ROW = ceil(n0 / 8)` (R71). -/
def State.srcRow (s : State) : Nat := (s.neurons 0 + 7) / 8

/-- `src_addr(s, a, n)` for sample `k` (R71). -/
def State.srcAddr (s : State) (k a n : Nat) : Nat :=
  s.regs.srcBase.toNat + (k * s.params.timeWindow + a) * s.srcRow + n / 8

/-- The accumulators a FullyConnected event `j` adds to, with their weights' addresses (R139). -/
def State.fcTargets (s : State) (l j : Nat) : List (Nat × Nat) :=
  (List.range (s.neurons l)).map (fun i => (i, s.fcWeightAddr l i j))

/-- The kernel offset `(ky, kx)` of event `j` gives an output position: the bounds check of R140. -/
def State.convHits (s : State) (l j ky kx : Nat) : Bool :=
  decide (ky ≤ j / s.inSide l ∧ j / s.inSide l - ky < s.outSide l ∧
    kx ≤ j % s.inSide l ∧ j % s.inSide l - kx < s.outSide l)

/-- The neuron of filter `f` at the output position that offset `(ky, kx)` of event `j` gives:
`f * P + y * OUT + x` (R140). -/
def State.convNeuron (s : State) (l j ky kx f : Nat) : Nat :=
  f * s.plane l + (j / s.inSide l - ky) * s.outSide l + (j % s.inSide l - kx)

/-- The accumulators a Conv event `j` adds to, with their weights' addresses, `ky` then `kx` then `f`
ascending (R140, R141). -/
def State.convTargets (s : State) (l j : Nat) : List (Nat × Nat) :=
  (List.range (s.kSide l)).flatMap (fun ky =>
    (List.range (s.kSide l)).flatMap (fun kx =>
      if s.convHits l j ky kx then
        (List.range (s.filters l)).map (fun f => (s.convNeuron l j ky kx f, s.convWeightAddr l ky kx f))
      else []))

/-- The accumulators of a FullyConnected layer with their biases' addresses (R136). -/
def State.fcBiasTargets (s : State) (l : Nat) : List (Nat × Nat) :=
  (List.range (s.neurons l)).map (fun i => (i, s.fcBiasAddr l i))

/-- The accumulators of a Conv layer with their biases' addresses: neuron `i` belongs to filter `i div P`
(R136). -/
def State.convBiasTargets (s : State) (l : Nat) : List (Nat × Nat) :=
  (List.range (s.neurons l)).map (fun i => (i, s.convBiasAddr l (i / s.plane l)))

/-- PARAM0: `TAU` in bits 15:0, `NCHUNKS` in bits 31:16 (R37). -/
def param0 (p : Params) : Word := BitVec.ofNat 16 p.nChunks ++ BitVec.ofNat 16 p.tau

/-- PARAM1: `MAX_NEURONS` in bits 16:0, `MAX_LAYERS` in bits 28:20, the rest 0 (R37). -/
def param1 (p : Params) : Word :=
  BitVec.ofNat 3 0 ++ BitVec.ofNat 9 p.maxLayers ++ BitVec.ofNat 3 0 ++ BitVec.ofNat 17 p.maxNeurons

end Sys2Proof.Machine
end

