-- ==== Sys2Proof/Machine/Accept.lean ====
section
/-! DEFINITION. The acceptance checks of every command: spec/30_encoding.md R89, spec/45_pipeline.md R157, R164,
spec/41_spike_buffer.md R116, spec/60_exceptions.md R171 to R180. -/

namespace Sys2Proof.Machine

/-- The word is a NaN pattern (spec/40_codec.md R102). -/
def isNaN32 (w : Word) : Bool :=
  decide ((w.extractLsb' 23 8).toNat = 255 ∧ (w.extractLsb' 0 23).toNat ≠ 0)

/-- The command needs CONFIGURED = 1 (the table of R89). -/
def needsConfigured (i : Instr) : Bool :=
  match i with
  | .nop => false
  | .srst => false
  | .init => false
  | .zero => false
  | .clrcnt => false
  | .quant => false
  | .dequant => false
  | .sbget _ _ _ => false
  | .sbset _ _ _ _ => false
  | .swap => false
  | .loadch _ _ => true
  | .vclr => false
  | .vscale _ => true
  | .vadd _ => true
  | .vcmp _ => true
  | .vsubt _ => true
  | .vpack _ _ => true
  | .vbias _ => true
  | .evacc _ _ => true
  | .accum _ _ => true
  | .lifstep _ _ => true
  | .layer _ => true
  | .count _ => true
  | .classify => true
  | .run _ => true

/-- Step 4: every operand lies in its range (the table of R89). -/
def operandsInRange (i : Instr) (s : State) : Bool :=
  match i with
  | .nop => true
  | .srst => true
  | .init => true
  | .zero => true
  | .clrcnt => true
  | .quant => true
  | .dequant => true
  | .sbget _ n t => decide (t < s.params.tau ∧ n < s.params.maxNeurons)
  | .sbset _ n t _ => decide (t < s.params.tau ∧ n < s.params.maxNeurons)
  | .swap => true
  | .loadch c _ => decide (c < s.params.nChunks)
  | .vclr => true
  | .vscale l => decide (l < s.nLayers)
  | .vadd l => decide (l < s.nLayers)
  | .vcmp l => decide (l < s.nLayers)
  | .vsubt l => decide (l < s.nLayers)
  | .vpack l t => decide (l < s.nLayers ∧ t < s.params.tau)
  | .vbias l => decide (l < s.nLayers)
  | .evacc l j => decide (l < s.nLayers ∧ j < s.nIn l)
  | .accum l t => decide (l < s.nLayers ∧ t < s.params.tau)
  | .lifstep l t => decide (l < s.nLayers ∧ t < s.params.tau)
  | .layer l => decide (l < s.nLayers)
  | .count c => decide (c < s.params.nChunks)
  | .classify => true
  | .run _ => true

/-- The highest source address a LOADCH reads (R116). -/
def loadchLastAddr (c k : Nat) (s : State) : Nat :=
  s.srcAddr k (c * s.params.tau + s.params.tau - 1) (s.neurons 0 - 1)

/-- The highest source address any LOADCH inside a RUN can read (R164). -/
def runLastAddr (k : Nat) (s : State) : Nat :=
  s.regs.srcBase.toNat + (k * s.params.timeWindow + s.params.timeWindow - 1) * s.srcRow + s.srcRow - 1

/-- Step 5: the command's last source address is below 2^32 (R116, R164, R178). -/
def sourceInRange (i : Instr) (s : State) : Bool :=
  match i with
  | .loadch c k => decide (loadchLastAddr c k s < 2 ^ 32)
  | .run k => decide (runLastAddr k s < 2 ^ 32)
  | .nop => true
  | .srst => true
  | .init => true
  | .zero => true
  | .clrcnt => true
  | .quant => true
  | .dequant => true
  | .sbget _ _ _ => true
  | .sbset _ _ _ _ => true
  | .swap => true
  | .vclr => true
  | .vscale _ => true
  | .vadd _ => true
  | .vcmp _ => true
  | .vsubt _ => true
  | .vpack _ _ => true
  | .vbias _ => true
  | .evacc _ _ => true
  | .accum _ _ => true
  | .lifstep _ _ => true
  | .layer _ => true
  | .count _ => true
  | .classify => true

/-- Sub 5 fails: a reference is null where it is needed, or not null on an Input layer (R157, R43). -/
def badReference (l : Nat) (s : State) : Bool :=
  if s.kind l = .input then decide (s.wbase l ≠ 0 ∨ s.bbase l ≠ 0)
  else decide (s.wbase l = 0 ∨ s.bbase l = 0)

/-- Sub 6 fails: the Conv geometry does not match the neuron counts (R157). -/
def badGeometry (l : Nat) (s : State) : Bool :=
  decide (s.kind l = .conv ∧
    (s.kSide l = 0 ∨ s.inSide l < s.kSide l ∨ s.filters l = 0 ∨
      s.inSide l * s.inSide l ≠ s.neurons (l - 1) ∨
      s.filters l * (s.outSide l * s.outSide l) ≠ s.neurons l))

/-- Sub 7 fails: a table would pass the end of TMEM (R157). -/
def badTables (l : Nat) (s : State) : Bool :=
  decide
    ((s.kind l = .fullyConnected ∧
        (2 ^ 32 < s.wbase l + s.neurons l * s.neurons (l - 1) ∨ 2 ^ 32 < s.bbase l + s.neurons l)) ∨
      (s.kind l = .conv ∧
        (2 ^ 32 < s.wbase l + s.kSide l * s.kSide l * s.filters l ∨
          2 ^ 32 < s.bbase l + s.filters l)))

/-- The first failing check of layer `l`, sub 2 to sub 7 in this order (R157). -/
def layerCfgError (l : Nat) (s : State) : Option Nat :=
  if s.kind l = .reserved then some 2
  else if (l = 0 ∧ s.kind l ≠ .input) ∨ (0 < l ∧ s.kind l = .input) then some 3
  else if s.neurons l = 0 ∨ s.params.maxNeurons < s.neurons l then some 4
  else if badReference l s then some 5
  else if badGeometry l s then some 6
  else if badTables l s then some 7
  else none

/-- The first failing configuration check as `(sub, l)`: sub 1, then layer by layer (R157). -/
def cfgError (s : State) : Option (Nat × Nat) :=
  if s.nLayers = 0 ∨ s.params.maxLayers < s.nLayers then some (1, 0)
  else (List.range s.nLayers).findSome? (fun l => (layerCfgError l s).map (fun sub => (sub, l)))

/-- ERRINFO of E_CFG: `sub << 8 | l` (R172). -/
def cfgInfo (p : Nat × Nat) : Word := BitVec.ofNat 32 (p.1 * 256 + p.2)

/-- Steps 6 and 7 of `Accept`: the checks of QUANT and INIT (R177, R157). -/
def lastChecks (i : Instr) (s : State) : Option ErrRecord :=
  if i = .quant ∧ isNaN32 s.regs.codecIn = true then some { kind := .nan, info := s.regs.codecIn }
  else if i = .init then (cfgError s).map (fun p => { kind := .cfg, info := cfgInfo p })
  else none

/-- Steps 2 to 7 of `Accept` (R89) for the command `i`: the first failing one, `none` when all pass. -/
def acceptError (i : Instr) (s : State) : Option ErrRecord :=
  if s.regs.status.fatal = true ∧ i ≠ .srst then some { kind := .state, info := encode i }
  else if i = .init ∧ s.regs.status.configured = true then some { kind := .state, info := encode i }
  else if needsConfigured i = true ∧ s.regs.status.configured = false then
    some { kind := .state, info := encode i }
  else if operandsInRange i s = false then some { kind := .idx, info := encode i }
  else if sourceInRange i s = false then some { kind := .mem, info := encode i }
  else lastChecks i s

/-- `Accept(w)` after checks 1 and 2 of the register port (R89): refuse with the first failing step's error, or
latch the command. -/
def acceptWord (w : Word) (s : State) : State :=
  match decode w with
  | .error _ => raise { kind := .illcmd, info := w } s
  | .ok i =>
    match acceptError i s with
    | some e => raise e s
    | none => latch w s

/-- A write to CMD while BUSY = 1 is refused and lost (R176 sub 1, spec/70_reset_and_hazards.md R195). -/
def refuseBusyCommand (s : State) : State := raise (accessError 1 0x010) s

/-- One command issued by the host and run to its end: `RegWrite(CMD, encode i)` with all its checks, then, when
it is accepted, the `Complete` step with the command's effects (R89). -/
def issue (i : Instr) (effect : State → State) (s : State) : Host.Outcome State Fault Refusal :=
  if s.regs.status.busy = true then .next (refuseBusyCommand s)
  else
    match acceptError i s with
    | some e => .next (raise e s)
    | none => .next (finish (effect (latch (encode i) s)))

end Sys2Proof.Machine
end

