-- ==== Sys2Proof/Machine/Codec.lean ====
section
/-! DEFINITION. The Q0.7 codec: QUANT and DEQUANT (spec/40_codec.md R100 to R105).  Every finite binary32 value
is an integer multiple of 2^-149, so the real arithmetic of R103 is done exactly on integers in that unit. -/

namespace Sys2Proof.Machine

/-- What a binary32 pattern stands for (R102). -/
inductive Float32Value where
  /-- `e = 255` and `m ≠ 0`. -/
  | nan
  /-- `e = 255` and `m = 0`; `neg` is the sign bit. -/
  | infinity (neg : Bool)
  /-- The real number `units * 2^-149`. -/
  | finite (units : Int)
  deriving DecidableEq, Repr

/-- The exponent field `w[30:23]` (R102). -/
def floatExp (w : Word) : Nat := (w.extractLsb' 23 8).toNat

/-- The fraction field `w[22:0]` (R102). -/
def floatFrac (w : Word) : Nat := (w.extractLsb' 0 23).toNat

/-- The sign bit `w[31]` (R102). -/
def floatSign (w : Word) : Bool := w.getLsbD 31

/-- `|val(w)|` in units of 2^-149: `m` when `e = 0`, `(2^23 + m) * 2^(e - 1)` when `1 <= e <= 254` (R102). -/
def floatUnits (w : Word) : Nat :=
  if floatExp w = 0 then floatFrac w else (2 ^ 23 + floatFrac w) * 2 ^ (floatExp w - 1)

/-- Reading a binary32 pattern (R102). -/
def floatValue (w : Word) : Float32Value :=
  if floatExp w = 255 then (if floatFrac w = 0 then .infinity (floatSign w) else .nan)
  else .finite (if floatSign w then -(floatUnits w : Int) else (floatUnits w : Int))

/-- The real number 1 in units of 2^-149. -/
def unitOne : Int := 2 ^ 149

/-- The first clamp of R103, to [-1, 127/128], in units of 2^-149. -/
def clampUnits (x : Int) : Int :=
  if x < -unitOne then -unitOne else if 127 * 2 ^ 142 < x then 127 * 2 ^ 142 else x

/-- Round half away from zero of `y` given in units of 2^-149 (R103): `floor(y + 1/2)` for `y >= 0`,
`-floor(-y + 1/2)` for `y < 0`. -/
def roundUnits (y : Int) : Int :=
  if 0 ≤ y then (2 * y + unitOne) / (2 * unitOne) else -((2 * -y + unitOne) / (2 * unitOne))

/-- `quantize` of the real number `x * 2^-149` (R103), with the second clamp the source lists. -/
def quantizeUnits (x : Int) : Int := min 127 (max (-128) (roundUnits (clampUnits x * 128)))

/-- `quantize` of a value: plus infinity counts as greater than every real, minus infinity as less (R103).  QUANT
refuses a NaN at acceptance (R177), so its result is never used. -/
def quantize (x : Float32Value) : Int :=
  match x with
  | .nan => 0
  | .infinity neg => if neg then -128 else 127
  | .finite units => quantizeUnits units

/-- The position of the highest set bit of `a`, `1 <= a <= 128` (R104). -/
def topBit (a : Nat) : Nat := Nat.log2 a

/-- `f32_of_q(q)` (R104): the binary32 pattern of `q / 128`. -/
def floatOfCode (q : Int) : Word :=
  if q = 0 then 0
  else
    BitVec.ofNat 32 ((if q < 0 then 2 ^ 31 else 0) + (120 + topBit q.natAbs) * 2 ^ 23 +
      (q.natAbs - 2 ^ topBit q.natAbs) * 2 ^ (23 - topBit q.natAbs))

/-- The effects of QUANT: `CODEC_OUT <- u32(quantize(x))` (R100). -/
def quantEffect (s : State) : State :=
  { s with regs.codecOut := BitVec.ofInt 32 (quantize (floatValue s.regs.codecIn)) }

/-- The effects of DEQUANT: `CODEC_OUT <- f32_of_q(sext_8(CODEC_IN[7:0]))` (R101). -/
def dequantEffect (s : State) : State :=
  { s with regs.codecOut := floatOfCode (s.regs.codecIn.extractLsb' 0 8).toInt }

/-- QUANT (R100). -/
def execQuant (s : State) : Host.Outcome State Fault Refusal := issue .quant quantEffect s

/-- DEQUANT (R101). -/
def execDequant (s : State) : Host.Outcome State Fault Refusal := issue .dequant dequantEffect s

end Sys2Proof.Machine
end

