-- ==== Sys2Proof/Machine/Accumulate.lean ====
section
/-! DEFINITION. Event-driven accumulation and the sparse convolver: VBIAS, EVACC, ACCUM (spec/43_accumulate.md
R135 to R144). -/

namespace Sys2Proof.Machine

/-- The effects of VBIAS l: 0, the neuron's bias, or the bias of the neuron's filter (R136).  No configured layer
has the reserved kind (spec/45_pipeline.md R157 sub 2); the model leaves SUM unchanged there (log entry 7). -/
def vbiasEffect (l : Nat) (s : State) : State :=
  match s.kind l with
  | .input => (List.range (s.neurons l)).foldl (fun s i => s.setSum i 0) s
  | .fullyConnected => loadSums (s.fcBiasTargets l) s
  | .conv => loadSums (s.convBiasTargets l) s
  | .reserved => s

/-- The effects of EVACC l, j: the fixed quantum (R138), input `j`'s weight column (R139), or one step of the
sparse convolution (R140).  The reserved kind is as in `vbiasEffect` (log entry 7). -/
def evaccEffect (l j : Nat) (s : State) : State :=
  match s.kind l with
  | .input => addSum j s.params.oneSpike.toInt s
  | .fullyConnected => accumulateSums (s.fcTargets l j) s
  | .conv => accumulateSums (s.convTargets l j) s
  | .reserved => s

/-- One input of ACCUM: the contribution of event `j` when bit `j` of row `t` of buffer A is set (R141). -/
def eventStep (l t : Nat) (s : State) (j : Nat) : State :=
  if s.sbGet (s.roleBuf .A) j t = true then evaccEffect l j s else s

/-- The effects of ACCUM l, t: the biases, then the events in ascending order (R141). -/
def accumEffect (l t : Nat) (s : State) : State :=
  (List.range (s.nIn l)).foldl (eventStep l t) (vbiasEffect l s)

/-- VBIAS l (R136). -/
def execVbias (l : Nat) (s : State) : Host.Outcome State Fault Refusal := issue (.vbias l) (vbiasEffect l) s

/-- EVACC l, j (R137 to R140). -/
def execEvacc (l j : Nat) (s : State) : Host.Outcome State Fault Refusal :=
  issue (.evacc l j) (evaccEffect l j) s

/-- ACCUM l, t (R141). -/
def execAccum (l t : Nat) (s : State) : Host.Outcome State Fault Refusal :=
  issue (.accum l t) (accumEffect l t) s

end Sys2Proof.Machine
end

