-- ==== Sys2Proof/Machine/Alu.lean ====
section
/-! DEFINITION. The elementwise ALU commands: VCLR, VSCALE, VADD, VCMP, VSUBT, VPACK (spec/42_alu.md R120 to
R131). -/

namespace Sys2Proof.Machine

/-- The effects of VCLR: every accumulator 0 (R125).  A table that lists nothing reads 0 everywhere. -/
def vclrEffect (s : State) : State := { s with arr.sum := [] }

/-- The lane of VSCALE: `scale32(V[l][i], sext_16(DK[l][i]))` (R126). -/
def vscaleLane (s : State) (l i : Nat) : Option (Word × Bool) :=
  some (scale32 (s.vAt l i).toInt (s.dkAt l i).toInt)

/-- The effects of VSCALE l (R126). -/
def vscaleEffect (l : Nat) (s : State) : State := mapLanes l (s.neurons l) (vscaleLane s l) s

/-- The lane of VADD: `add32(V[l][i], SUM[i])` (R127). -/
def vaddLane (s : State) (l i : Nat) : Option (Word × Bool) :=
  some (add32 (s.vAt l i).toInt (s.sumAt i).toInt)

/-- The effects of VADD l (R127). -/
def vaddEffect (l : Nat) (s : State) : State := mapLanes l (s.neurons l) (vaddLane s l) s

/-- The effects of VCMP l: `RF[l][i] <- cmp_ge(V[l][i], sext_16(TH[l][i]))` (R128). -/
def vcmpEffect (l : Nat) (s : State) : State :=
  (List.range (s.neurons l)).foldl
    (fun s i => s.setRf l i (BitVec.ofBool (cmpGe (s.vAt l i).toInt (s.thAt l i).toInt))) s

/-- The lane of VSUBT: `add32(V[l][i], -sext_16(TH[l][i]))` where `RF[l][i] = 1`, not written elsewhere
(R129). -/
def vsubtLane (s : State) (l i : Nat) : Option (Word × Bool) :=
  if s.rfAt l i = 1 then some (add32 (s.vAt l i).toInt (-(s.thAt l i).toInt)) else none

/-- The effects of VSUBT l (R129). -/
def vsubtEffect (l : Nat) (s : State) : State := mapLanes l (s.neurons l) (vsubtLane s l) s

/-- The effects of VPACK l, t: `sb_set(B, i, t, RF[l][i])` for the layer's neurons (R130). -/
def vpackEffect (l t : Nat) (s : State) : State :=
  (List.range (s.neurons l)).foldl
    (fun s i => s.sbSet (s.roleBuf .B) i t (decide (s.rfAt l i = 1))) s

/-- VCLR (R125). -/
def execVclr (s : State) : Host.Outcome State Fault Refusal := issue .vclr vclrEffect s

/-- VSCALE l (R126). -/
def execVscale (l : Nat) (s : State) : Host.Outcome State Fault Refusal := issue (.vscale l) (vscaleEffect l) s

/-- VADD l (R127). -/
def execVadd (l : Nat) (s : State) : Host.Outcome State Fault Refusal := issue (.vadd l) (vaddEffect l) s

/-- VCMP l (R128). -/
def execVcmp (l : Nat) (s : State) : Host.Outcome State Fault Refusal := issue (.vcmp l) (vcmpEffect l) s

/-- VSUBT l (R129). -/
def execVsubt (l : Nat) (s : State) : Host.Outcome State Fault Refusal := issue (.vsubt l) (vsubtEffect l) s

/-- VPACK l, t (R130). -/
def execVpack (l t : Nat) (s : State) : Host.Outcome State Fault Refusal :=
  issue (.vpack l t) (vpackEffect l t) s

end Sys2Proof.Machine
end

