-- ==== Sys2Proof/Machine/LifLayer.lean ====
section
/-! DEFINITION. The LIF neuron update and the layer update: LIFSTEP, LAYER (spec/44_lif_layer.md R145 to R150). -/

namespace Sys2Proof.Machine

/-- The decay step of LIFSTEP: VSCALE when `CTRL.IF_MODE = 0`, nothing in the non-leaky variant (R145, R147). -/
def decayEffect (l : Nat) (s : State) : State := if s.regs.ifMode = true then s else vscaleEffect l s

/-- The effects of LIFSTEP l, t, in the canonical post-update order (R145, R146). -/
def lifstepEffect (l t : Nat) (s : State) : State :=
  vpackEffect l t (vsubtEffect l (vcmpEffect l (vaddEffect l (decayEffect l (accumEffect l t s)))))

/-- The effects of LAYER l: the timesteps of a chunk in ascending order; no swap (R148). -/
def layerEffect (l : Nat) (s : State) : State :=
  (List.range s.params.tau).foldl (fun s t => lifstepEffect l t s) s

/-- LIFSTEP l, t (R145). -/
def execLifstep (l t : Nat) (s : State) : Host.Outcome State Fault Refusal :=
  issue (.lifstep l t) (lifstepEffect l t) s

/-- LAYER l (R148). -/
def execLayer (l : Nat) (s : State) : Host.Outcome State Fault Refusal := issue (.layer l) (layerEffect l) s

end Sys2Proof.Machine
end

