-- ==== Sys2Proof/Machine/SpikeBuffer.lean ====
section
/-! DEFINITION. The spike-buffer commands: SBGET, SBSET, SWAP, LOADCH (spec/41_spike_buffer.md R110 to R117). -/

namespace Sys2Proof.Machine

/-- The effects of SBGET role, n, t: `BITRES <- sb_get(k, n, t)` (R113). -/
def sbgetEffect (role : Role) (n t : Nat) (s : State) : State :=
  { s with regs.bitres := s.sbGet (s.roleBuf role) n t }

/-- The effects of SBSET role, n, t, v: `sb_set(k, n, t, v)` (R114). -/
def sbsetEffect (role : Role) (n t : Nat) (v : Bool) (s : State) : State := s.sbSet (s.roleBuf role) n t v

/-- The effects of SWAP: `STATUS.SEL <- 1 - STATUS.SEL`; no byte moves (R115). -/
def swapEffect (s : State) : State := { s with regs.status.sel := otherBuf s.regs.status.sel }

/-- `sb_set(A, n, t, Src(k, a, n))`: one bit of a chunk's load, its source byte read afresh (R116, R71). -/
def loadBit (k a t n : Nat) (s : State) : State :=
  ((s.memRead (s.srcAddr k a n)).2).sbSet (s.roleBuf .A) n t
    ((s.memRead (s.srcAddr k a n)).1.getLsbD (n % 8))

/-- The effects of LOADCH c, k: rows 0 .. TAU - 1 of buffer A, bits 0 .. n(0) - 1 of each (R116). -/
def loadchEffect (c k : Nat) (s : State) : State :=
  (List.range s.params.tau).foldl
    (fun u t => (List.range (s.neurons 0)).foldl (fun u n => loadBit k (c * s.params.tau + t) t n u) u) s

/-- SBGET role, n, t (R113). -/
def execSbget (role : Role) (n t : Nat) (s : State) : Host.Outcome State Fault Refusal :=
  issue (.sbget role n t) (sbgetEffect role n t) s

/-- SBSET role, n, t, v (R114). -/
def execSbset (role : Role) (n t : Nat) (v : Bool) (s : State) : Host.Outcome State Fault Refusal :=
  issue (.sbset role n t v) (sbsetEffect role n t v) s

/-- SWAP (R115). -/
def execSwap (s : State) : Host.Outcome State Fault Refusal := issue .swap swapEffect s

/-- LOADCH c, k (R116). -/
def execLoadch (c k : Nat) (s : State) : Host.Outcome State Fault Refusal :=
  issue (.loadch c k) (loadchEffect c k) s

end Sys2Proof.Machine
end

