-- ==== Sys2Proof/Machine/Pipeline.lean ====
section
/-! DEFINITION. The pipeline scheduler, the classifier and the system commands: NOP, SRST, INIT, ZERO, CLRCNT,
COUNT, CLASSIFY, RUN (spec/45_pipeline.md R155 to R167). -/

namespace Sys2Proof.Machine

/-- The effects of NOP: none (R155). -/
def nopEffect (s : State) : State := s

/-- The effects of SRST: every register takes its reset value, the arrays keep their contents (R156). -/
def srstEffect (s : State) : State := softReset s

/-- The broadcast of INIT to one layer: `TH[l][i] <- LTHR.THR; DK[l][i] <- LDECAY.DECAY` (R158). -/
def initLayer (l : Nat) (s : State) : State :=
  (List.range (s.neurons l)).foldl (fun s i => (s.setTh l i (s.desc l).thr).setDk l i (s.desc l).decay) s

/-- The effects of INIT: the broadcast over the configured layers, then `CONFIGURED <- 1` (R158). -/
def initEffect (s : State) : State :=
  { (List.range s.nLayers).foldl (fun s l => initLayer l s) s with
    regs.status.configured := true }

/-- The effects of ZERO: every V and RF element 0 (R159).  A table that lists nothing reads 0 everywhere. -/
def zeroEffect (s : State) : State := { s with arr.v := [], arr.rf := [] }

/-- The effects of CLRCNT: every COUNTS element 0 (R160). -/
def clrcntEffect (s : State) : State := { s with arr.counts := [] }

/-- One increment of `COUNTS[i][c]`: modulo 2^32, with OVF set when it wraps (R161). -/
def bumpCount (i c : Nat) (s : State) : State :=
  (s.setCount i c (s.countAt i c + 1)).orOvf (decide (s.countAt i c = 0xFFFFFFFF))

/-- One bit of COUNT: neuron `i` of the last layer at timestep `t` (R161). -/
def countBit (c t : Nat) (s : State) (i : Nat) : State :=
  if s.sbGet (s.roleBuf .A) i t = true then bumpCount i c s else s

/-- The effects of COUNT c (R161). -/
def countEffect (c : Nat) (s : State) : State :=
  (List.range s.params.tau).foldl
    (fun s t => (List.range (s.neurons s.lastLayer)).foldl (countBit c t) s) s

/-- `total[i]`, the exact sum of a neuron's counts over all chunks (R162). -/
def State.total (s : State) (i : Nat) : Nat :=
  ((List.range s.params.nChunks).map (fun c => (s.countAt i c).toNat)).sum

/-- The greatest total of the last layer's neurons (R162). -/
def State.maxTotal (s : State) : Nat :=
  (List.range (s.neurons s.lastLayer)).foldl (fun m i => max m (s.total i)) 0

/-- What CLASSIFY writes to RESULT: "no class", or the least neuron whose total is the greatest (R162, R33). -/
def State.classOf (s : State) : Word :=
  if s.maxTotal = 0 then 0x80000000
  else
    match (List.range (s.neurons s.lastLayer)).find? (fun i => decide (s.total i = s.maxTotal)) with
    | some i => BitVec.ofNat 32 i
    | none => 0x80000000

/-- The effects of CLASSIFY (R162). -/
def classifyEffect (s : State) : State := { s with regs.result := s.classOf }

/-- Steps (a) to (c) of `inference` for chunk `c` of sample `k`: load, then each layer and a swap, then count
(R163). -/
def chunkEffect (k : Nat) (s : State) (c : Nat) : State :=
  countEffect c
    ((List.range s.nLayers).foldl (fun s l => swapEffect (layerEffect l s)) (loadchEffect c k s))

/-- The effects of RUN k: clear, every chunk, classify (R163). -/
def runEffect (k : Nat) (s : State) : State :=
  classifyEffect ((List.range s.params.nChunks).foldl (chunkEffect k) (clrcntEffect (zeroEffect s)))

/-- NOP (R155). -/
def execNop (s : State) : Host.Outcome State Fault Refusal := issue .nop nopEffect s

/-- SRST (R156). -/
def execSrst (s : State) : Host.Outcome State Fault Refusal := issue .srst srstEffect s

/-- INIT (R157, R158). -/
def execInit (s : State) : Host.Outcome State Fault Refusal := issue .init initEffect s

/-- ZERO, alias RESET (R159, spec/30_encoding.md R88). -/
def execZero (s : State) : Host.Outcome State Fault Refusal := issue .zero zeroEffect s

/-- CLRCNT (R160). -/
def execClrcnt (s : State) : Host.Outcome State Fault Refusal := issue .clrcnt clrcntEffect s

/-- COUNT c (R161). -/
def execCount (c : Nat) (s : State) : Host.Outcome State Fault Refusal := issue (.count c) (countEffect c) s

/-- CLASSIFY (R162). -/
def execClassify (s : State) : Host.Outcome State Fault Refusal := issue .classify classifyEffect s

/-- RUN k (R163, R164). -/
def execRun (k : Nat) (s : State) : Host.Outcome State Fault Refusal := issue (.run k) (runEffect k) s

end Sys2Proof.Machine
end

