-- ==== Sys2Proof/Machine/Dispatch.lean ====
section
/-! DEFINITION. One arm per command: the direct call of its meaning. -/

namespace Sys2Proof.Machine

def exec (i : Instr) (s : State) : Host.Outcome State Fault Refusal :=
  match i with
  | .nop => Sys2Proof.Machine.execNop s
  | .srst => Sys2Proof.Machine.execSrst s
  | .init => Sys2Proof.Machine.execInit s
  | .zero => Sys2Proof.Machine.execZero s
  | .clrcnt => Sys2Proof.Machine.execClrcnt s
  | .quant => Sys2Proof.Machine.execQuant s
  | .dequant => Sys2Proof.Machine.execDequant s
  | .sbget role n t => Sys2Proof.Machine.execSbget role n t s
  | .sbset role n t v => Sys2Proof.Machine.execSbset role n t v s
  | .swap => Sys2Proof.Machine.execSwap s
  | .loadch c k => Sys2Proof.Machine.execLoadch c k s
  | .vclr => Sys2Proof.Machine.execVclr s
  | .vscale l => Sys2Proof.Machine.execVscale l s
  | .vadd l => Sys2Proof.Machine.execVadd l s
  | .vcmp l => Sys2Proof.Machine.execVcmp l s
  | .vsubt l => Sys2Proof.Machine.execVsubt l s
  | .vpack l t => Sys2Proof.Machine.execVpack l t s
  | .vbias l => Sys2Proof.Machine.execVbias l s
  | .evacc l j => Sys2Proof.Machine.execEvacc l j s
  | .accum l t => Sys2Proof.Machine.execAccum l t s
  | .lifstep l t => Sys2Proof.Machine.execLifstep l t s
  | .layer l => Sys2Proof.Machine.execLayer l s
  | .count c => Sys2Proof.Machine.execCount c s
  | .classify => Sys2Proof.Machine.execClassify s
  | .run k => Sys2Proof.Machine.execRun k s

end Sys2Proof.Machine
end

