-- ==== Sys2Proof/Machine/Complete.lean ====
section
/-! DEFINITION. The unit's own step, `Complete` (spec/30_encoding.md R89). -/

namespace Sys2Proof.Machine

/-- The effects of a command, as its rule says (R89). -/
def effectOf (i : Instr) (s : State) : State :=
  match i with
  | .nop => nopEffect s
  | .srst => srstEffect s
  | .init => initEffect s
  | .zero => zeroEffect s
  | .clrcnt => clrcntEffect s
  | .quant => quantEffect s
  | .dequant => dequantEffect s
  | .sbget role n t => sbgetEffect role n t s
  | .sbset role n t v => sbsetEffect role n t v s
  | .swap => swapEffect s
  | .loadch c k => loadchEffect c k s
  | .vclr => vclrEffect s
  | .vscale l => vscaleEffect l s
  | .vadd l => vaddEffect l s
  | .vcmp l => vcmpEffect l s
  | .vsubt l => vsubtEffect l s
  | .vpack l t => vpackEffect l t s
  | .vbias l => vbiasEffect l s
  | .evacc l j => evaccEffect l j s
  | .accum l t => accumEffect l t s
  | .lifstep l t => lifstepEffect l t s
  | .layer l => layerEffect l s
  | .count c => countEffect c s
  | .classify => classifyEffect s
  | .run k => runEffect k s

/-- `Complete`, enabled iff BUSY = 1: perform the effects of the command in CMD, then `BUSY <- 0`.  While BUSY = 0
there is nothing to complete and nothing changes. -/
def completeStep (s : State) : Host.Outcome State Fault Refusal :=
  if s.regs.status.busy = true then
    match decode s.regs.cmd with
    | .ok i => .next (finish (effectOf i s))
    | .error _ => .fault .noCommandToComplete
  else .next s

end Sys2Proof.Machine
end

