-- ==== Sys2Proof/Machine/RegisterPort.lean ====
section
/-! DEFINITION. The register port: the register map, the array port, and the checks of a transaction
(spec/10_state.md R21 to R47, R58, spec/60_exceptions.md R176). -/

namespace Sys2Proof.Machine

/-- The eight registers of a layer descriptor, in offset order (R39 to R46). -/
inductive DescField where
  | lkind
  | lneur
  | lthr
  | ldecay
  | lwbase
  | lbbase
  | lgeom
  | lfilt
  deriving DecidableEq, Repr

/-- The registers of the map (R58). -/
inductive Reg where
  | id
  | status
  | errcode
  | errinfo
  | cmd
  | ctrl
  | nlayers
  | srcBase
  | codecIn
  | codecOut
  | bitres
  | result
  | asel
  | aidx
  | adata
  | param0
  | param1
  | param2
  | desc (l : Nat) (f : DescField)
  deriving DecidableEq, Repr

/-- The descriptor register at a word index (R58: +0x00 LKIND … +0x1C LFILT). -/
def descFieldAt (k : Nat) : DescField :=
  match k with
  | 0 => .lkind
  | 1 => .lneur
  | 2 => .lthr
  | 3 => .ldecay
  | 4 => .lwbase
  | 5 => .lbbase
  | 6 => .lgeom
  | _ => .lfilt

/-- The register at an offset (R58); `none` for an undefined offset. -/
def regAt (maxLayers off : Nat) : Option Reg :=
  match off with
  | 0x000 => some .id
  | 0x004 => some .status
  | 0x008 => some .errcode
  | 0x00C => some .errinfo
  | 0x010 => some .cmd
  | 0x014 => some .ctrl
  | 0x018 => some .nlayers
  | 0x01C => some .srcBase
  | 0x020 => some .codecIn
  | 0x024 => some .codecOut
  | 0x028 => some .bitres
  | 0x02C => some .result
  | 0x030 => some .asel
  | 0x034 => some .aidx
  | 0x038 => some .adata
  | 0x040 => some .param0
  | 0x044 => some .param1
  | 0x048 => some .param2
  | off =>
    if 0x100 ≤ off ∧ off < 0x100 + 0x20 * maxLayers ∧ off % 4 = 0 then
      some (.desc ((off - 0x100) / 0x20) (descFieldAt ((off - 0x100) % 0x20 / 4)))
    else none

/-- The read-only registers (R58, R176 sub 3). -/
def regReadOnly (r : Reg) : Bool :=
  match r with
  | .id => true
  | .status => true
  | .errcode => true
  | .errinfo => true
  | .codecOut => true
  | .bitres => true
  | .result => true
  | .param0 => true
  | .param1 => true
  | .param2 => true
  | .cmd => false
  | .ctrl => false
  | .nlayers => false
  | .srcBase => false
  | .codecIn => false
  | .asel => false
  | .aidx => false
  | .adata => false
  | .desc _ _ => false

/-- The registers locked while CONFIGURED = 1 (R47). -/
def regLocked (r : Reg) : Bool :=
  match r with
  | .ctrl => true
  | .nlayers => true
  | .desc _ _ => true
  | .id => false
  | .status => false
  | .errcode => false
  | .errinfo => false
  | .cmd => false
  | .srcBase => false
  | .codecIn => false
  | .codecOut => false
  | .bitres => false
  | .result => false
  | .asel => false
  | .aidx => false
  | .adata => false
  | .param0 => false
  | .param1 => false
  | .param2 => false

/-- The registers that may be read while BUSY = 1 (R21 check 2). -/
def regReadableBusy (r : Reg) : Bool := decide (r = .id ∨ r = .status)

/-- An array element as the array port selects it (R34). -/
inductive Element where
  | v (l i : Nat)
  | rf (l i : Nat)
  | th (l i : Nat)
  | dk (l i : Nat)
  | sum (i : Nat)
  | counts (i c : Nat)
  | sb (k : Buf) (t b : Nat)
  deriving DecidableEq, Repr

/-- A selected element, when its index and layer are in range; sub-cause 6 otherwise (R36). -/
def selectIf (ok : Bool) (e : Element) : Except Nat Element := if ok then .ok e else .error 6

/-- What ASEL and AIDX select: the element, or the sub-cause of an invalid selection, 5 before 6 (R34, R36). -/
def portSelect (s : State) : Except Nat Element :=
  let a := s.regs.aselArr.toNat
  let l := s.regs.aselLayer.toNat
  let x := s.regs.aidx.toNat
  let p := s.params
  let perLayer := decide (x < p.maxNeurons ∧ l < p.maxLayers)
  match a with
  | 0 => selectIf perLayer (.v l x)
  | 1 => selectIf perLayer (.rf l x)
  | 2 => selectIf perLayer (.th l x)
  | 3 => selectIf perLayer (.dk l x)
  | 4 => selectIf (decide (x < p.maxNeurons ∧ l = 0)) (.sum x)
  | 5 => selectIf (decide (x < p.maxNeurons * p.nChunks ∧ l = 0)) (.counts (x / p.nChunks) (x % p.nChunks))
  | 6 => selectIf (decide (x < p.tau * p.rowBytes ∧ l = 0)) (.sb .sb0 (x / p.rowBytes) (x % p.rowBytes))
  | 7 => selectIf (decide (x < p.tau * p.rowBytes ∧ l = 0)) (.sb .sb1 (x / p.rowBytes) (x % p.rowBytes))
  | _ => .error 5

/-- `RegRead(ADATA)` of a valid selection: signed elements sign-extended, the others zero-extended (R36). -/
def readElement (e : Element) (s : State) : Word :=
  match e with
  | .v l i => s.vAt l i
  | .rf l i => (s.rfAt l i).setWidth 32
  | .th l i => (s.thAt l i).signExtend 32
  | .dk l i => (s.dkAt l i).signExtend 32
  | .sum i => s.sumAt i
  | .counts i c => s.countAt i c
  | .sb k t b => (s.sbAt k t b).setWidth 32

/-- `RegWrite(ADATA, v)` of a valid selection: the low bits of the element's width (R36). -/
def writeElement (e : Element) (v : Word) (s : State) : State :=
  match e with
  | .v l i => s.setV l i v
  | .rf l i => s.setRf l i (v.setWidth 1)
  | .th l i => s.setTh l i (v.setWidth 16)
  | .dk l i => s.setDk l i (v.setWidth 16)
  | .sum i => s.setSum i v
  | .counts i c => s.setCount i c v
  | .sb k t b => s.setSb k t b (v.setWidth 8)

/-- What a descriptor register reads; reserved bits read 0 (R39 to R46). -/
def readDesc (f : DescField) (d : LayerDesc) : Word :=
  match f with
  | .lkind => d.kind.setWidth 32
  | .lneur => d.neur.setWidth 32
  | .lthr => d.thr.setWidth 32
  | .ldecay => d.decay.setWidth 32
  | .lwbase => d.wbase
  | .lbbase => d.bbase
  | .lgeom => d.kSide ++ d.inSide
  | .lfilt => d.filt.setWidth 32

/-- A descriptor after a write; reserved bits ignore what is written (R39 to R46). -/
def writeDesc (f : DescField) (v : Word) (d : LayerDesc) : LayerDesc :=
  match f with
  | .lkind => { d with kind := v.setWidth 2 }
  | .lneur => { d with neur := v.setWidth 17 }
  | .lthr => { d with thr := v.setWidth 16 }
  | .ldecay => { d with decay := v.setWidth 16 }
  | .lwbase => { d with wbase := v }
  | .lbbase => { d with bbase := v }
  | .lgeom => { d with inSide := v.extractLsb' 0 16, kSide := v.extractLsb' 16 16 }
  | .lfilt => { d with filt := v.setWidth 17 }

/-- The identity word, the letters "LIF" and the revision byte 1 (R22). -/
def idWord : Word := 0x4C494601

/-- ADATA reads the selected element; the checks have refused an invalid selection (R36). -/
def readPort (s : State) : Word :=
  match portSelect s with
  | .ok e => readElement e s
  | .error _ => 0

/-- ADATA writes the selected element (R36). -/
def writePort (v : Word) (s : State) : State :=
  match portSelect s with
  | .ok e => writeElement e v s
  | .error _ => s

/-- The value of a register (R22 to R46). -/
def readReg (r : Reg) (s : State) : Word :=
  match r with
  | .id => idWord
  | .status => statusWord s.regs.status
  | .errcode => s.regs.errcode.setWidth 32
  | .errinfo => s.regs.errinfo
  | .cmd => s.regs.cmd
  | .ctrl => bitAt 0 s.regs.ifMode
  | .nlayers => s.regs.nlayers.setWidth 32
  | .srcBase => s.regs.srcBase
  | .codecIn => s.regs.codecIn
  | .codecOut => s.regs.codecOut
  | .bitres => bitAt 0 s.regs.bitres
  | .result => s.regs.result
  | .asel => (s.regs.aselLayer ++ 0#4 ++ s.regs.aselArr).setWidth 32
  | .aidx => s.regs.aidx
  | .adata => readPort s
  | .param0 => param0 s.params
  | .param1 => param1 s.params
  | .param2 => s.params.oneSpike
  | .desc l f => readDesc f (s.desc l)

/-- The effect of an accepted write: a read-only register is never reached (R21 check 3); a write to CMD issues a
command (R26). -/
def writeReg (r : Reg) (v : Word) (s : State) : State :=
  match r with
  | .cmd => acceptWord v s
  | .ctrl => { s with regs.ifMode := v.getLsbD 0 }
  | .nlayers => { s with regs.nlayers := v.setWidth 9 }
  | .srcBase => { s with regs.srcBase := v }
  | .codecIn => { s with regs.codecIn := v }
  | .asel => { s with regs.aselArr := v.extractLsb' 0 4, regs.aselLayer := v.extractLsb' 8 8 }
  | .aidx => { s with regs.aidx := v }
  | .adata => writePort v s
  | .desc l f => { s with regs.layers := s.regs.layers.set l (writeDesc f v (s.desc l)) }
  | .id => s
  | .status => s
  | .errcode => s
  | .errinfo => s
  | .codecOut => s
  | .bitres => s
  | .result => s
  | .param0 => s
  | .param1 => s
  | .param2 => s

/-- Check 5 of R21: the sub-cause of an invalid ADATA selection. -/
def portError (r : Reg) (s : State) : Option Nat :=
  if r = .adata then
    match portSelect s with
    | .ok _ => none
    | .error sub => some sub
  else none

/-- Checks 2 to 5 of R21 on the register at a defined offset: the sub-cause of the first that fails. -/
def regError (isWrite : Bool) (r : Reg) (s : State) : Option Nat :=
  if s.regs.status.busy = true ∧ ¬(isWrite = false ∧ regReadableBusy r = true) then some 1
  else if isWrite = true ∧ regReadOnly r = true then some 3
  else if isWrite = true ∧ regLocked r = true ∧ s.regs.status.configured = true then some 4
  else portError r s

/-- The checks of a transaction in the order of R21: the register, or the sub-cause of the first that fails. -/
def portCheck (isWrite : Bool) (off width : Nat) (s : State) : Except Nat Reg :=
  if off % 4 = 0 ∧ width = 32 then
    match regAt s.params.maxLayers off with
    | none => .error 2
    | some r =>
      match regError isWrite r s with
      | some sub => .error sub
      | none => .ok r
  else .error 2

/-- `RegRead(off)` (R21): a refused read returns 0 and changes no register but the error record. -/
def hostRead (off width : Nat) (s : State) : State :=
  match portCheck false off width s with
  | .ok r => { s with rdata := readReg r s }
  | .error sub => { raise (accessError sub off) s with rdata := 0 }

/-- `RegWrite(off, v)` (R21): a refused write changes no register but the error record. -/
def hostWrite (off width : Nat) (v : Word) (s : State) : State :=
  match portCheck true off width s with
  | .ok r => writeReg r v s
  | .error sub => raise (accessError sub off) s

end Sys2Proof.Machine
end

