-- ==== Sys2Proof/Machine/Fetch.lean ====
section
/-! DEFINITION. Taking the next input: which command, transaction or reset the next step performs. -/

namespace Sys2Proof.Machine

/-- What the next step does: run a command, or end in an outcome already. -/
inductive Fetched where
  | run (i : Instr) (s : State)
  | done (o : Host.Outcome State Fault Refusal)
  deriving Repr

/-- A listing line's word: a word that is no command is refused, with the register checks first
(spec/60_exceptions.md R174, R180). -/
def fetchCommand (w : Word) (s : State) : Fetched :=
  match decode w with
  | .ok i => .run i s
  | .error _ =>
    .done (.next (if s.regs.status.busy = true then refuseBusyCommand s
      else raise { kind := .illcmd, info := w } s))

/-- One input (spec/10_state.md R21, spec/30_encoding.md R87, R89, spec/70_reset_and_hazards.md R190). -/
def fetchInput (e : Input) (s : State) : Fetched :=
  match e with
  | .regRead off width => .done (.next (hostRead off width s))
  | .regWrite off width v => .done (.next (hostWrite off width v s))
  | .command w => fetchCommand w s
  | .complete => .done (completeStep s)
  | .hwReset a => .done (.next (hardReset a s))
  | .tmemWrite a b => .done (.next (platformStore a b s))

/-- The next input.  With none left the unit is alone: it completes a running command, and stays idle otherwise
(spec/60_exceptions.md R186 (f), spec/70_reset_and_hazards.md R202). -/
def fetch (s : State) : Fetched :=
  match s.inputs with
  | [] => .done (completeStep s)
  | e :: rest => fetchInput e { s with inputs := rest }

end Sys2Proof.Machine
end

