-- ==== Sys2Proof/Machine/Step.lean ====
section
/-! DEFINITION. One step of the machine: the next input. -/

namespace Sys2Proof.Machine

/-- One step: take the next input; a command runs to its end, the other inputs end at once. -/
def step (s : State) : Host.Outcome State Fault Refusal :=
  match fetch s with
  | .run i s => exec i s
  | .done o => o

/-- The state whose next input is the command word of a table row, so that the very next step runs it: the host
issues the command (log entry 5). -/
def State.withFetchWord (s : State) (nbits w : Nat) : State :=
  { s with inputs := .command (tableWord nbits w) :: s.inputs }

end Sys2Proof.Machine
end

