-- ==== Sys2Proof/Safety.lean ====
section
/-! DEFINITION. The terms claims are stated in: when a command is ready to run, what a command that completes or
is refused leaves, the invariant of the machine, INIT's checks one by one, binary32 on rational numbers, the register
map and the array port, and the LIF update on integers.  Written from the rules, not from the machine's own
operations. -/

namespace Sys2Proof.Machine

/-- Every configuration the spec gives a meaning: no command is running and no configuration error stands
(spec/30_encoding.md R89 steps 1 and 2, spec/60_exceptions.md R182). -/
abbrev Idle (s : State) : Prop := s.regs.status.busy = false ∧ s.regs.status.fatal = false

/-- `Idle`, and INIT has succeeded: what the commands that need CONFIGURED ask for (spec/30_encoding.md R89). -/
abbrev Ready (s : State) : Prop := Idle s ∧ s.regs.status.configured = true

/-- What every completed command other than SRST leaves besides its own effects: CMD holds its word
(spec/10_state.md R26) and the record of replaced TMEM bytes is empty.  BUSY is back at 0. -/
def issued (i : Instr) (s : State) : State := { s with regs.cmd := encode i, stale := [] }

/-- The state with one more input waiting, to be taken next. -/
def given (e : Input) (s : State) : State := { s with inputs := e :: s.inputs }

/-- The state after `raise E_X(info)` with code `code`, field by field, for a status `st` with the code's sticky
flag set: the first error since reset also writes ERRCODE and ERRINFO (spec/60_exceptions.md R181). -/
def recorded (st : Status) (code : Byte) (info : Word) (s : State) : State :=
  { s with
    regs.status := st
    regs.errcode := if s.regs.errcode = 0 then code else s.regs.errcode
    regs.errinfo := if s.regs.errcode = 0 then info else s.regs.errinfo }

/-- E_CFG with its sub-cause and layer: FATAL is set too (spec/60_exceptions.md R172, R182). -/
def refusedCfg (sub l : Nat) (s : State) : State :=
  recorded { s.regs.status with eCfg := true, fatal := true } 1 (BitVec.ofNat 32 (sub * 256 + l)) s

/-- E_IDX with the command word (spec/60_exceptions.md R173). -/
def refusedIdx (i : Instr) (s : State) : State :=
  recorded { s.regs.status with eIdx := true } 2 (encode i) s

/-- E_ILLCMD with the word (spec/60_exceptions.md R174). -/
def refusedIllcmd (w : Word) (s : State) : State := recorded { s.regs.status with eIllcmd := true } 3 w s

/-- E_STATE with the command word (spec/60_exceptions.md R175). -/
def refusedState (i : Instr) (s : State) : State :=
  recorded { s.regs.status with eState := true } 4 (encode i) s

/-- E_ACCESS with its sub-cause and the byte offset (spec/60_exceptions.md R176). -/
def refusedAccess (sub off : Nat) (s : State) : State :=
  recorded { s.regs.status with eAccess := true } 5 (BitVec.ofNat 32 (sub * 65536 + off % 65536)) s

/-- E_NAN with the value of CODEC_IN (spec/60_exceptions.md R177). -/
def refusedNan (s : State) : State := recorded { s.regs.status with eNan := true } 6 s.regs.codecIn s

/-- E_MEM with the command word (spec/60_exceptions.md R178). -/
def refusedMem (i : Instr) (s : State) : State :=
  recorded { s.regs.status with eMem := true } 7 (encode i) s

/-- Commands issued one after the other, each run to its end, stopping at the first that does not answer a next
state. -/
def execAll (cmds : List Instr) (s : State) : Host.Outcome State Fault Refusal :=
  match cmds with
  | [] => .next s
  | i :: rest =>
    match exec i s with
    | .next t => execAll rest t
    | .fault r => .fault r
    | .refused r => .refused r

/-- The next step is SRST taking effect: its listing line on an idle unit, where it is always accepted, or the
`Complete` step of an SRST in CMD (spec/30_encoding.md R84, R87, R89, spec/45_pipeline.md R156). -/
abbrev SoftResets (s : State) : Prop :=
  (s.regs.status.busy = false ∧ s.inputs.head? = some (.command 0x01000000)) ∨
  (s.regs.status.busy = true ∧ s.regs.cmd = 0x01000000 ∧
    (s.inputs = [] ∨ s.inputs.head? = some .complete))

/-! ### The invariant of the machine -/

/-- The seven error kinds. -/
def allErrKinds : List ErrKind := [.cfg, .idx, .illcmd, .state, .access, .nan, .mem]

/-- ERRCODE is 0 exactly while no error has been raised, and otherwise is the code of a raised error
(spec/10_state.md R24, R25, spec/60_exceptions.md R171, R181). -/
abbrev ErrorRecordWf (r : Regs) : Prop :=
  (r.errcode = 0 ∧ r.errinfo = 0 ∧ ∀ k ∈ allErrKinds, errFlag k r.status = false) ∨
  (∃ k ∈ allErrKinds, r.errcode = errCode k ∧ errFlag k r.status = true)

/-- While BUSY = 1 CMD holds a command that passed acceptance, and still would (spec/30_encoding.md R89). -/
def commandLatched (s : State) : Bool :=
  match decode s.regs.cmd with
  | .ok i => decide (acceptError i s = none)
  | .error _ => false

/-- While CONFIGURED = 1 the checks INIT made are still true (spec/10_state.md R47, spec/92_eei_decisions.md
D38). -/
abbrev TopologyHolds (s : State) : Prop :=
  s.regs.status.configured = true → cfgError s = none ∧ s.regs.status.fatal = false

/-- An input carries array contents in canonical form only. -/
def inputWf (e : Input) : Bool :=
  match e with
  | .hwReset a => decide (ArraysWf a)
  | .regRead _ _ => true
  | .regWrite _ _ _ => true
  | .command _ => true
  | .complete => true
  | .tmemWrite _ _ => true

/-- The invariant: the parameters are a configuration of this hardware, one descriptor per layer, canonical
arrays and TMEM, no TMEM byte in flight while idle, a valid command while busy, the configured topology valid,
FATAL only after E_CFG, and a sound error record. -/
abbrev Inv (s : State) : Prop :=
  s.params.Valid ∧
  s.regs.layers.length = s.params.maxLayers ∧
  ArraysWf s.arr ∧
  Memory.wf s.tmem ∧
  (∀ e ∈ s.inputs, inputWf e = true) ∧
  (s.regs.status.busy = false → s.stale = []) ∧
  (s.regs.status.busy = true → commandLatched s = true) ∧
  TopologyHolds s ∧
  (s.regs.status.fatal = true → s.regs.status.eCfg = true) ∧
  ErrorRecordWf s.regs

/-! ### Element ranges (spec/10_state.md R48 to R54, spec/70_reset_and_hazards.md R203) -/

/-- Every listed key lies below the two bounds. -/
abbrev KeysBelow {w : Nat} (rows cols : Nat) (t : Table w) : Prop := ∀ c ∈ t, c.1.1 < rows ∧ c.1.2 < cols

/-- No array holds an element outside the ranges of R48 to R54. -/
abbrev ArraysInRange (p : Params) (a : Arrays) : Prop :=
  KeysBelow p.maxLayers p.maxNeurons a.v ∧ KeysBelow p.maxLayers p.maxNeurons a.rf ∧
  KeysBelow p.maxLayers p.maxNeurons a.th ∧ KeysBelow p.maxLayers p.maxNeurons a.dk ∧
  KeysBelow 1 p.maxNeurons a.sum ∧ KeysBelow p.maxNeurons p.nChunks a.counts ∧
  KeysBelow p.tau p.rowBytes a.sb0 ∧ KeysBelow p.tau p.rowBytes a.sb1

/-- The same of the contents an input carries. -/
def inputInRange (p : Params) (e : Input) : Bool :=
  match e with
  | .hwReset a => decide (ArraysInRange p a)
  | .regRead _ _ => true
  | .regWrite _ _ _ => true
  | .command _ => true
  | .complete => true
  | .tmemWrite _ _ => true

/-- The state's arrays, and those its inputs carry, are in range. -/
abbrev InRange (s : State) : Prop :=
  ArraysInRange s.params s.arr ∧ ∀ e ∈ s.inputs, inputInRange s.params e = true

/-! ### INIT's checks, one by one (spec/45_pipeline.md R157) -/

/-- Check `sub` of R157 fails for layer `l`, in the rule's own words. -/
def CfgCheckFails (s : State) (sub l : Nat) : Prop :=
  match sub with
  | 2 => (s.desc l).kind = 3
  | 3 => (l = 0 ∧ (s.desc l).kind ≠ 0) ∨ (0 < l ∧ (s.desc l).kind = 0)
  | 4 => s.neurons l = 0 ∨ s.params.maxNeurons < s.neurons l
  | 5 =>
    ((s.desc l).kind = 0 ∧ ((s.desc l).wbase ≠ 0 ∨ (s.desc l).bbase ≠ 0)) ∨
      ((s.desc l).kind ≠ 0 ∧ ((s.desc l).wbase = 0 ∨ (s.desc l).bbase = 0))
  | 6 =>
    (s.desc l).kind = 1 ∧
      (s.kSide l = 0 ∨ s.inSide l < s.kSide l ∨ s.filters l = 0 ∨
        s.inSide l * s.inSide l ≠ s.neurons (l - 1) ∨
        s.filters l * (s.inSide l - s.kSide l + 1) ^ 2 ≠ s.neurons l)
  | 7 =>
    ((s.desc l).kind = 2 ∧
        (s.wbase l + s.neurons l * s.neurons (l - 1) > 2 ^ 32 ∨ s.bbase l + s.neurons l > 2 ^ 32)) ∨
      ((s.desc l).kind = 1 ∧
        (s.wbase l + s.kSide l * s.kSide l * s.filters l > 2 ^ 32 ∨ s.bbase l + s.filters l > 2 ^ 32))
  | _ => False

/-- Check `sub` of layer `l` is the first that fails: all its predecessors of the same layer pass, and every check
of every earlier layer (R157). -/
def FirstCfgFailure (s : State) (sub l : Nat) : Prop :=
  l < s.nLayers ∧ CfgCheckFails s sub l ∧ (∀ sub' < sub, ¬CfgCheckFails s sub' l) ∧
    ∀ l' < l, ∀ sub', ¬CfgCheckFails s sub' l'

/-! ### Binary32 on rational numbers (spec/40_codec.md R102, R103) -/

/-- `val(w)` of R102 for a pattern that is neither a NaN nor an infinity, as a rational number. -/
def floatRat (w : Word) : ℚ :=
  (if w.getLsbD 31 then -1 else 1) *
    (if (w.extractLsb' 23 8).toNat = 0 then ((w.extractLsb' 0 23).toNat : ℚ) / 2 ^ 149
     else (2 ^ 23 + ((w.extractLsb' 0 23).toNat : ℚ)) * 2 ^ (w.extractLsb' 23 8).toNat / 2 ^ 150)

/-- The first clamp of R103: to [-1, 127/128]. -/
def clampRat (x : ℚ) : ℚ := if x < -1 then -1 else if 127 / 128 < x then 127 / 128 else x

/-- Round half away from zero (R103). -/
def roundRat (y : ℚ) : ℤ := if 0 ≤ y then ⌊y + 1 / 2⌋ else -⌊-y + 1 / 2⌋

/-! ### The fields of a command word (spec/30_encoding.md R81, R82, R84) -/

/-- "Field use per mnemonic" of R84: which field of the word each operand is the unsigned value of. -/
def FieldUse (w : Word) (i : Instr) : Prop :=
  let x := (w.extractLsb' 16 8).toNat
  let y := (w.extractLsb' 0 16).toNat
  let role := if w.getLsbD 24 then Role.B else Role.A
  match i with
  | .sbget r n t => r = role ∧ t = x ∧ n = y
  | .sbset r n t v => r = role ∧ v = w.getLsbD 25 ∧ t = x ∧ n = y
  | .loadch c k => c = x ∧ k = y
  | .vscale l => l = x
  | .vadd l => l = x
  | .vcmp l => l = x
  | .vsubt l => l = x
  | .vpack l t => l = x ∧ t = y
  | .vbias l => l = x
  | .evacc l j => l = x ∧ j = y
  | .accum l t => l = x ∧ t = y
  | .lifstep l t => l = x ∧ t = y
  | .layer l => l = x
  | .count c => c = x
  | .run k => k = y
  | .nop => True
  | .srst => True
  | .init => True
  | .zero => True
  | .clrcnt => True
  | .quant => True
  | .dequant => True
  | .swap => True
  | .vclr => True
  | .classify => True

/-! ### The register map (spec/10_state.md R58) and the array port (R34, R36) -/

/-- The offset of a register of R58. -/
abbrev DefinedOffset (p : Params) (off : Nat) : Prop :=
  off ∈ [0x000, 0x004, 0x008, 0x00C, 0x010, 0x014, 0x018, 0x01C, 0x020, 0x024, 0x028, 0x02C, 0x030, 0x034, 0x038,
    0x040, 0x044, 0x048] ∨
  (0x100 ≤ off ∧ off < 0x100 + 0x20 * p.maxLayers ∧ off % 4 = 0)

/-- The bound on AIDX for the array ARR = `a` (R34). -/
def portBound (p : Params) (a : Nat) : Nat :=
  if a ≤ 4 then p.maxNeurons else if a = 5 then p.maxNeurons * p.nChunks else p.tau * p.rowBytes

/-- ASEL and AIDX select an element: sub-cause 5 and 6 do not apply (R36). -/
abbrev PortSelects (s : State) : Prop :=
  s.regs.aselArr.toNat < 8 ∧ s.regs.aidx.toNat < portBound s.params s.regs.aselArr.toNat ∧
  (s.regs.aselArr.toNat < 4 → s.regs.aselLayer.toNat < s.params.maxLayers) ∧
  (4 ≤ s.regs.aselArr.toNat → s.regs.aselLayer = 0)

/-- The element ADATA stands for, extended to 32 bits (R34, R36). -/
def portValue (s : State) : Word :=
  let l := s.regs.aselLayer.toNat
  let x := s.regs.aidx.toNat
  match s.regs.aselArr.toNat with
  | 0 => s.vAt l x
  | 1 => (s.rfAt l x).zeroExtend 32
  | 2 => (s.thAt l x).signExtend 32
  | 3 => (s.dkAt l x).signExtend 32
  | 4 => s.sumAt x
  | 5 => s.countAt (x / s.params.nChunks) (x % s.params.nChunks)
  | 6 => (s.sbAt .sb0 (x / s.params.rowBytes) (x % s.params.rowBytes)).zeroExtend 32
  | _ => (s.sbAt .sb1 (x / s.params.rowBytes) (x % s.params.rowBytes)).zeroExtend 32

/-- What an element of the array ARR = `a` reads as after `v` was stored in it: the low bits of the element's
width, extended as the array's elements are (R36). -/
def portStored (a : Nat) (v : Word) : Word :=
  match a with
  | 1 => v &&& 0x1
  | 2 => (v.extractLsb' 0 16).signExtend 32
  | 3 => (v.extractLsb' 0 16).signExtend 32
  | 6 => v &&& 0xFF
  | 7 => v &&& 0xFF
  | _ => v

/-- The same state with the array port pointed elsewhere. -/
def pointed (a : BitVec 4) (l : Byte) (x : Word) (s : State) : State :=
  { s with regs.aselArr := a, regs.aselLayer := l, regs.aidx := x }

/-! ### Arithmetic of the LIF update on integers (spec/42_alu.md R121, R122, spec/44_lif_layer.md R145) -/

/-- The exact result fits a 32-bit two's complement register: no wrap, OVF not set (R121, R122). -/
def fits32 (r : Int) : Bool := decide (-2147483648 ≤ r ∧ r ≤ 2147483647)

/-- `wrap32` (spec/00_scope.md R12). -/
def wrapInt (r : Int) : Int := (BitVec.ofInt 32 r).toInt

/-- `v1` before it is narrowed: `floor(v * d / 128)`, or `v` in the non-leaky variant (R145, R147). -/
def lifDecayed (leaky : Bool) (v d : Int) : Int := if leaky then v * d / 128 else v

/-- `v2` before it is narrowed: `v1 + s` (R145). -/
def lifSummed (leaky : Bool) (v d sum : Int) : Int := wrapInt (lifDecayed leaky v d) + sum

/-- `fire = cmp_ge(v2, th)` (R145). -/
def lifFires (leaky : Bool) (v d sum th : Int) : Bool := decide (th ≤ wrapInt (lifSummed leaky v d sum))

/-- `v3` before it is narrowed: `v2 - th` for a neuron that fires, else `v2` (R145). -/
def lifRest (leaky : Bool) (v d sum th : Int) : Int :=
  wrapInt (lifSummed leaky v d sum) - (if lifFires leaky v d sum th then th else 0)

/-- One of the neuron's three narrowings wraps (R145). -/
def lifWraps (leaky : Bool) (v d sum th : Int) : Bool :=
  !fits32 (lifDecayed leaky v d) || !fits32 (lifSummed leaky v d sum) || !fits32 (lifRest leaky v d sum th)

end Sys2Proof.Machine
end

