-- ==== Sys2Proof/Certificates/Slice0/Obligations.lean ====
section
/-! DEFINITION. The statements for the provers, each from numbered rules of spec/.  Where a statement says that a
command completes, its hypotheses speak of the state and the operands alone. -/

open Sys2Proof Sys2Proof.Machine

/-! ### Encoding (spec/30_encoding.md) -/

/-- Every command whose operands fit its fields decodes back from its own word (R81, R82, R84). -/
def Obligations.DecodeEncodeAgree : Prop := ∀ i : Instr, i.wf = true → decode (encode i) = .ok i

/-- Every word has at most one meaning, and the command it means is encoded by that word alone (R80, R84). -/
def Obligations.EncodeDecodeAgree : Prop :=
  ∀ (w : Word) (i : Instr), decode w = .ok i → i.wf = true ∧ encode i = w

/-- R84: `match` and `mask` of each row pick exactly the words of the row's command, the rows select disjoint
words, and each operand is the unsigned value of the field "Field use per mnemonic" names. -/
def Obligations.OpcodeTableIsDecoded : Prop :=
  (∀ w : Word, ∀ row ∈ opcodeTable,
    w &&& row.mask = row.pattern ↔ ∃ i, decode w = .ok i ∧ mnemonicOf i = row.mnemonic) ∧
  (∀ (w : Word) (i : Instr), decode w = .ok i → ∃ row ∈ opcodeTable, mnemonicOf i = row.mnemonic) ∧
  opcodeTable.Pairwise (fun a b => ∀ w : Word, ¬(w &&& a.mask = a.pattern ∧ w &&& b.mask = b.pattern)) ∧
  ∀ (w : Word) (i : Instr), decode w = .ok i → FieldUse w i

/-- R174, R85: a write of a word that matches no row raises E_ILLCMD with the word, whatever else holds, also
while FATAL = 1, and changes nothing but the error record. -/
def Obligations.IllegalWordRefused : Prop :=
  ∀ (s : State) (w : Word), s.regs.status.busy = false →
    (∀ row ∈ opcodeTable, w &&& row.mask ≠ row.pattern) →
    step (given (.regWrite 0x010 32 w) s) = .next (refusedIllcmd w s) ∧
    step (given (.command w) s) = .next (refusedIllcmd w s)

/-- The encoding examples of R87. -/
def Obligations.SampleWordsDecode : Prop :=
  decode 0x00000000 = .ok .nop ∧ decode 0x02000000 = .ok .init ∧ decode 0x09000000 = .ok .dequant ∧
  decode 0x11010005 = .ok (.sbget .B 5 1) ∧ decode 0x16010005 = .ok (.sbset .A 5 1 true) ∧
  decode 0x19010003 = .ok (.loadch 1 3) ∧ decode 0x21020000 = .ok (.vscale 2) ∧
  decode 0x25010000 = .ok (.vpack 1 0) ∧ decode 0x29010009 = .ok (.evacc 1 9) ∧
  decode 0x30010001 = .ok (.lifstep 1 1) ∧ decode 0x38010000 = .ok (.count 1) ∧
  decode 0x3A000007 = .ok (.run 7) ∧ decode 0x3A010000 = .error .nonzeroField ∧
  decode 0x05000000 = .error .unassignedOpcode

/-! ### Steps, acceptance and completion -/

/-- A step whose next input is the word of a command is that command's `exec`, the input taken. -/
def Obligations.StepRunsTheCommand : Prop :=
  ∀ (s : State) (w : Word) (i : Instr), decode w = .ok i → step (given (.command w) s) = exec i s

/-- R89, R26: writing a command to CMD while idle and letting the unit take its `Complete` step is `exec` of the
command; in between BUSY = 1 and CMD holds the word exactly when the command passes every check of `Accept`, with
nothing else changed, and a refused command leaves BUSY and CMD as they were. -/
def Obligations.AcceptThenComplete : Prop :=
  ∀ (s : State) (w : Word) (i : Instr), s.regs.status.busy = false → decode w = .ok i →
    ∃ m, step (given (.regWrite 0x010 32 w) (given .complete s)) = .next m ∧ step m = exec i s ∧
      (acceptError i s = none → m = given .complete
        { s with regs.cmd := w, regs.status.busy := true, stale := [] }) ∧
      (acceptError i s ≠ none → m.regs.status.busy = false ∧ m.regs.cmd = s.regs.cmd)

/-- R191, R37: what every register reads right after reset, for every parameter set, every array contents (R192)
and every TMEM; SRST gives the same values. -/
def Obligations.ResetRegisterValues : Prop :=
  ∀ (p : Params) (a : Arrays) (m : List Host.Cell), p.Valid →
    (∀ x ∈ ([(0x000, 0x4C494601), (0x004, 0), (0x008, 0), (0x00C, 0), (0x010, 0), (0x014, 0), (0x018, 0),
        (0x01C, 0), (0x020, 0), (0x024, 0), (0x028, 0), (0x02C, 0x80000000), (0x030, 0), (0x034, 0),
        (0x038, cellGet a.v (0, 0)), (0x048, p.oneSpike)] : List (Nat × Word)),
      step (given (.regRead x.1 32) (State.afterReset p a m)) =
        .next { State.afterReset p a m with rdata := x.2 }) ∧
    (∀ l < p.maxLayers, ∀ f < 8,
      step (given (.regRead (0x100 + 0x20 * l + 4 * f) 32) (State.afterReset p a m)) =
        .next { State.afterReset p a m with rdata := 0 }) ∧
    (∃ w : Word, step (given (.regRead 0x040 32) (State.afterReset p a m)) =
        .next { State.afterReset p a m with rdata := w } ∧
      (w.extractLsb' 0 16).toNat = p.tau ∧ (w.extractLsb' 16 16).toNat = p.nChunks) ∧
    (∃ w : Word, step (given (.regRead 0x044 32) (State.afterReset p a m)) =
        .next { State.afterReset p a m with rdata := w } ∧
      (w.extractLsb' 0 17).toNat = p.maxNeurons ∧ w.extractLsb' 17 3 = 0 ∧
      (w.extractLsb' 20 9).toNat = p.maxLayers ∧ w.extractLsb' 29 3 = 0) ∧
    ∀ s : State, s.regs.status.busy = false → s.params = p →
      ∃ t, exec .srst s = .next t ∧ t.regs = (State.afterReset p a m).regs

/-- R193, R156, R190: SRST and the hardware reset write the same register values; SRST, a command, is taken only
while BUSY = 0, also while FATAL = 1, and keeps the arrays; the hardware reset is taken in any state and leaves
arbitrary array contents `a`. -/
def Obligations.ResetsWriteResetValues : Prop :=
  (∀ s : State, s.regs.status.busy = false →
    exec .srst s = .next { s with regs := (State.afterReset s.params s.arr s.tmem).regs, stale := [] }) ∧
  (∀ s : State, s.regs.status.busy = true → exec .srst s = .next (refusedAccess 1 0x010 s)) ∧
  ∀ (s : State) (a : Arrays),
    step (given (.hwReset a) s) =
      .next { s with regs := (State.afterReset s.params a s.tmem).regs, arr := a, stale := [] }

/-! ### The register port (spec/10_state.md, spec/60_exceptions.md R176) -/

/-- Check 1 of R21: an undefined offset, or an access that is not 32 bits wide, is refused with sub-cause 2, also
while BUSY = 1; a refused read returns 0. -/
def Obligations.UndefinedOffsetRefused : Prop :=
  ∀ (s : State) (off width : Nat) (v : Word), ¬DefinedOffset s.params off ∨ width ≠ 32 →
    step (given (.regRead off width) s) = .next { refusedAccess 2 off s with rdata := 0 } ∧
    step (given (.regWrite off width v) s) = .next (refusedAccess 2 off s)

/-- R195 (check 2 of R21): while BUSY = 1 only ID and STATUS may be read; every other access is refused with
sub-cause 1, a read returning 0, and a command written then is lost. -/
def Obligations.BusyRefuses : Prop :=
  ∀ (s : State) (off : Nat) (v : Word), s.regs.status.busy = true → DefinedOffset s.params off →
    step (given (.regRead 0x000 32) s) = .next { s with rdata := 0x4C494601 } ∧
    (∃ w, step (given (.regRead 0x004 32) s) = .next { s with rdata := w }) ∧
    (off ≠ 0x000 → off ≠ 0x004 →
      step (given (.regRead off 32) s) = .next { refusedAccess 1 off s with rdata := 0 }) ∧
    step (given (.regWrite off 32 v) s) = .next (refusedAccess 1 off s) ∧
    ∀ i : Instr, exec i s = .next (refusedAccess 1 0x010 s)

/-- Checks 3 and 4 of R21: a write to a read-only register is refused with sub-cause 3, and while CONFIGURED = 1
a write to CTRL, NLAYERS or a layer descriptor with sub-cause 4 (R47). -/
def Obligations.ProtectedRegistersRefused : Prop :=
  ∀ (s : State) (v : Word), s.regs.status.busy = false →
    (∀ off ∈ [0x000, 0x004, 0x008, 0x00C, 0x024, 0x028, 0x02C, 0x040, 0x044, 0x048],
      step (given (.regWrite off 32 v) s) = .next (refusedAccess 3 off s)) ∧
    (s.regs.status.configured = true → ∀ off : Nat,
      (off = 0x014 ∨ off = 0x018 ∨ (0x100 ≤ off ∧ off < 0x100 + 0x20 * s.params.maxLayers ∧ off % 4 = 0)) →
      step (given (.regWrite off 32 v) s) = .next (refusedAccess 4 off s))

/-- R36 with the table of R34: ADATA works only while BUSY = 0; it refuses an invalid selection with sub-cause 5
before 6; a valid selection reads its element and changes nothing; a write stores the low bits of the element's
width in that element and in no other. -/
def Obligations.ArrayPort : Prop :=
  (∀ (s : State) (v : Word), s.regs.status.busy = true →
    step (given (.regRead 0x038 32) s) = .next { refusedAccess 1 0x038 s with rdata := 0 } ∧
    step (given (.regWrite 0x038 32 v) s) = .next (refusedAccess 1 0x038 s)) ∧
  ∀ (s : State) (v : Word), s.regs.status.busy = false →
    (8 ≤ s.regs.aselArr.toNat →
      step (given (.regRead 0x038 32) s) = .next { refusedAccess 5 0x038 s with rdata := 0 } ∧
      step (given (.regWrite 0x038 32 v) s) = .next (refusedAccess 5 0x038 s)) ∧
    (s.regs.aselArr.toNat < 8 → ¬PortSelects s →
      step (given (.regRead 0x038 32) s) = .next { refusedAccess 6 0x038 s with rdata := 0 } ∧
      step (given (.regWrite 0x038 32 v) s) = .next (refusedAccess 6 0x038 s)) ∧
    (PortSelects s →
      step (given (.regRead 0x038 32) s) = .next { s with rdata := portValue s } ∧
      ∃ t, step (given (.regWrite 0x038 32 v) s) = .next t ∧ t = { s with arr := t.arr } ∧
        portValue t = portStored s.regs.aselArr.toNat v ∧
        ∀ (a : BitVec 4) (l : Byte) (x : Word), PortSelects (pointed a l x s) →
          ¬(a = s.regs.aselArr ∧ l = s.regs.aselLayer ∧ x = s.regs.aidx) →
          portValue (pointed a l x t) = portValue (pointed a l x s))

/-- R27 to R30, R34, R35, R39 to R46: a read-write register reads back what was written in its defined bits and 0
in its reserved bits, and no other register and no array changes.  The registers of the first list are never
locked; the others take the write while CONFIGURED = 0. -/
def Obligations.RegisterReadsBack : Prop :=
  ∀ (s : State) (off : Nat) (mask v : Word), s.regs.status.busy = false →
    s.regs.layers.length = s.params.maxLayers →
    ((off, mask) ∈ ([(0x01C, 0xFFFFFFFF), (0x020, 0xFFFFFFFF), (0x030, 0xFF0F), (0x034, 0xFFFFFFFF)] :
        List (Nat × Word)) ∨
      (s.regs.status.configured = false ∧
        ((off, mask) ∈ ([(0x014, 0x1), (0x018, 0x1FF)] : List (Nat × Word)) ∨
          ∃ l < s.params.maxLayers, ∃ f : Nat, off = 0x100 + 0x20 * l + f ∧
            (f, mask) ∈ ([(0x00, 0x3), (0x04, 0x1FFFF), (0x08, 0xFFFF), (0x0C, 0xFFFF), (0x10, 0xFFFFFFFF),
              (0x14, 0xFFFFFFFF), (0x18, 0xFFFFFFFF), (0x1C, 0x1FFFF)] : List (Nat × Word))))) →
    ∃ t, step (given (.regWrite off 32 v) s) = .next t ∧ t = { s with regs := t.regs } ∧
      step (given (.regRead off 32) t) = .next { t with rdata := v &&& mask } ∧
      ∀ off' : Nat, off' ≠ off → off' ≠ 0x038 → (hostRead off' 32 t).rdata = (hostRead off' 32 s).rdata

/-- R21: a read has no side effect other than the error record of a refused read, which returns 0. -/
def Obligations.ReadHasNoSideEffect : Prop :=
  ∀ (s : State) (off width : Nat), ∃ t, step (given (.regRead off width) s) = .next t ∧
    (t = { s with rdata := t.rdata } ∨ ∃ sub ∈ [1, 2, 5, 6], t = { refusedAccess sub off s with rdata := 0 })

/-- R22 to R46: what a read of each register answers, in every state.  STATUS can be read at any time, and its bits
are the fields of the table, the reserved ones 0 (R23).  Every other register, read while BUSY = 0, answers its
constant or its fields at their bits, zero-extended; ADATA is `ArrayPort`'s.  The read changes nothing. -/
def Obligations.RegistersReadTheirFields : Prop :=
  ∀ s : State,
    (∃ w, step (given (.regRead 0x004 32) s) = .next { s with rdata := w } ∧
      ∀ k < 32, w.getLsbD k =
        [s.regs.status.busy, s.regs.status.configured, s.regs.status.fatal, decide (s.regs.status.sel = .sb1),
          false, false, false, false, s.regs.status.eCfg, s.regs.status.eIdx, s.regs.status.eIllcmd,
          s.regs.status.eState, s.regs.status.eAccess, s.regs.status.eNan, s.regs.status.eMem, false,
          s.regs.status.ovf].getD k false) ∧
    (s.regs.status.busy = false →
      (∀ x ∈ ([(0x000, 0x4C494601), (0x008, s.regs.errcode.zeroExtend 32), (0x00C, s.regs.errinfo),
          (0x010, s.regs.cmd), (0x014, if s.regs.ifMode = true then 1 else 0),
          (0x018, s.regs.nlayers.zeroExtend 32), (0x01C, s.regs.srcBase), (0x020, s.regs.codecIn),
          (0x024, s.regs.codecOut), (0x028, if s.regs.bitres = true then 1 else 0), (0x02C, s.regs.result),
          (0x030, BitVec.ofNat 32 (s.regs.aselLayer.toNat * 2 ^ 8 + s.regs.aselArr.toNat)),
          (0x034, s.regs.aidx), (0x048, s.params.oneSpike)] : List (Nat × Word)),
        step (given (.regRead x.1 32) s) = .next { s with rdata := x.2 }) ∧
      (s.params.Valid →
        step (given (.regRead 0x040 32) s) =
          .next { s with rdata := BitVec.ofNat 32 (s.params.nChunks * 2 ^ 16 + s.params.tau) } ∧
        step (given (.regRead 0x044 32) s) =
          .next { s with rdata := BitVec.ofNat 32 (s.params.maxLayers * 2 ^ 20 + s.params.maxNeurons) }) ∧
      ∀ l < s.params.maxLayers,
        ∀ x ∈ ([(0x00, (s.desc l).kind.zeroExtend 32), (0x04, (s.desc l).neur.zeroExtend 32),
            (0x08, (s.desc l).thr.zeroExtend 32), (0x0C, (s.desc l).decay.zeroExtend 32), (0x10, (s.desc l).wbase),
            (0x14, (s.desc l).bbase),
            (0x18, BitVec.ofNat 32 ((s.desc l).kSide.toNat * 2 ^ 16 + (s.desc l).inSide.toNat)),
            (0x1C, (s.desc l).filt.zeroExtend 32)] : List (Nat × Word)),
          step (given (.regRead (0x100 + 0x20 * l + x.1) 32) s) = .next { s with rdata := x.2 })

/-! ### Errors (spec/60_exceptions.md) -/

/-- R181, R183, R200, R156: SRST taking effect, the Complete step of an SRST in CMD among the ways, writes every
register's reset value.  No other step but the hardware reset clears a sticky flag, FATAL, OVF or CONFIGURED, or
changes ERRCODE or ERRINFO once ERRCODE is not 0. -/
def Obligations.ErrorsAreSticky : Prop :=
  ∀ s t : State, step s = .next t → (∀ a, s.inputs.head? ≠ some (.hwReset a)) →
    (SoftResets s → t.regs = (State.afterReset s.params s.arr s.tmem).regs) ∧
    (¬SoftResets s →
      (s.regs.errcode ≠ 0 → t.regs.errcode = s.regs.errcode ∧ t.regs.errinfo = s.regs.errinfo) ∧
      (∀ k ∈ allErrKinds, errFlag k s.regs.status = true → errFlag k t.regs.status = true) ∧
      (s.regs.status.fatal = true → t.regs.status.fatal = true) ∧
      (s.regs.status.ovf = true → t.regs.status.ovf = true) ∧
      (s.regs.status.configured = true → t.regs.status.configured = true))

/-- R170: every command either is refused, and then changes nothing but the error record, or completes without
raising an error. -/
def Obligations.CommandsArePrecise : Prop :=
  ∀ (i : Instr) (s : State), ∃ t, exec i s = .next t ∧
    ((∃ u ∈ [refusedIdx i s, refusedState i s, refusedAccess 1 0x010 s, refusedNan s, refusedMem i s], t = u) ∨
      (∃ sub l, t = refusedCfg sub l s) ∨
      (t.regs.status.busy = false ∧
        (i ≠ .srst → t.regs.cmd = encode i ∧ t.regs.errcode = s.regs.errcode ∧
          t.regs.errinfo = s.regs.errinfo ∧ t.regs.status.fatal = s.regs.status.fatal ∧
          ∀ k ∈ allErrKinds, errFlag k t.regs.status = errFlag k s.regs.status)))

/-- R175, R182: any command but SRST while FATAL = 1, INIT while CONFIGURED = 1, and a command that needs the
topology while CONFIGURED = 0 are refused with E_STATE and the command word. -/
def Obligations.StateRefused : Prop :=
  ∀ s : State, s.regs.status.busy = false →
    (s.regs.status.fatal = true → ∀ i : Instr, i ≠ .srst → exec i s = .next (refusedState i s)) ∧
    (s.regs.status.configured = true → exec .init s = .next (refusedState .init s)) ∧
    (s.regs.status.configured = false → ∀ a b : Nat,
      ∀ i ∈ [Instr.loadch a b, .vscale a, .vadd a, .vcmp a, .vsubt a, .vpack a b, .vbias a, .evacc a b,
          .accum a b, .lifstep a b, .layer a, .count a, .classify, .run a],
        exec i s = .next (refusedState i s))

/-- R173: an operand outside its range is refused with E_IDX and the command word. -/
def Obligations.OutOfRangeRefused : Prop :=
  (∀ (s : State) (r : Role) (n t : Nat) (v : Bool), Idle s → s.params.tau ≤ t ∨ s.params.maxNeurons ≤ n →
    ∀ i ∈ [Instr.sbget r n t, .sbset r n t v], exec i s = .next (refusedIdx i s)) ∧
  (∀ (s : State) (c k : Nat), Ready s → s.params.nChunks ≤ c →
    ∀ i ∈ [Instr.loadch c k, .count c], exec i s = .next (refusedIdx i s)) ∧
  (∀ (s : State) (l b : Nat), Ready s → s.nLayers ≤ l →
    ∀ i ∈ [Instr.vscale l, .vadd l, .vcmp l, .vsubt l, .vpack l b, .vbias l, .evacc l b, .accum l b,
        .lifstep l b, .layer l], exec i s = .next (refusedIdx i s)) ∧
  (∀ (s : State) (l t : Nat), Ready s → s.params.tau ≤ t →
    ∀ i ∈ [Instr.vpack l t, .accum l t, .lifstep l t], exec i s = .next (refusedIdx i s)) ∧
  (∀ (s : State) (l j : Nat), Ready s → s.nIn l ≤ j → exec (.evacc l j) s = .next (refusedIdx (.evacc l j) s))

/-- R178 with R116 and R164: a LOADCH or RUN whose highest spike-source address is not below 2^32 is refused with
E_MEM and the command word. -/
def Obligations.SourceRefused : Prop :=
  (∀ (s : State) (c k : Nat), Ready s → c < s.params.nChunks →
    2 ^ 32 ≤ s.regs.srcBase.toNat +
      (k * s.params.timeWindow + (c * s.params.tau + s.params.tau - 1)) * ((s.neurons 0 + 7) / 8) +
      (s.neurons 0 - 1) / 8 →
    exec (.loadch c k) s = .next (refusedMem (.loadch c k) s)) ∧
  (∀ (s : State) (k : Nat), Ready s →
    2 ^ 32 ≤ s.regs.srcBase.toNat +
      (k * s.params.timeWindow + s.params.timeWindow - 1) * ((s.neurons 0 + 7) / 8) +
      (s.neurons 0 + 7) / 8 - 1 →
    exec (.run k) s = .next (refusedMem (.run k) s))

/-- R157, R172: INIT of a bad configuration raises E_CFG with `sub << 8 | l` of the first failing check, sets
FATAL and changes nothing else. -/
def Obligations.BadConfigurationRefused : Prop :=
  ∀ s : State, Idle s → s.regs.status.configured = false →
    (s.nLayers = 0 ∨ s.params.maxLayers < s.nLayers → exec .init s = .next (refusedCfg 1 0 s)) ∧
    (1 ≤ s.nLayers → s.nLayers ≤ s.params.maxLayers → ∀ sub l, FirstCfgFailure s sub l →
      exec .init s = .next (refusedCfg sub l s))

/-! ### System commands (spec/45_pipeline.md) -/

/-- R155: NOP leaves every array and register but CMD unchanged; it is refused in FATAL like every command but
SRST. -/
def Obligations.NopChangesOnlyCmd : Prop :=
  ∀ s : State, s.regs.status.busy = false →
    (s.regs.status.fatal = false → exec .nop s = .next { s with regs.cmd := 0, stale := [] }) ∧
    (s.regs.status.fatal = true → exec .nop s = .next (refusedState .nop s))

/-- R158: INIT of a configuration that passes every check broadcasts LTHR and LDECAY over the configured layers
and sets CONFIGURED; nothing else but CMD changes. -/
def Obligations.InitBroadcastsAndConfigures : Prop :=
  ∀ s : State, Idle s → s.regs.status.configured = false → 1 ≤ s.nLayers → s.nLayers ≤ s.params.maxLayers →
    (∀ l < s.nLayers, ∀ sub, ¬CfgCheckFails s sub l) →
    ∃ t, exec .init s = .next t ∧
      t = { issued .init s with
            regs.status.configured := true, arr.th := t.arr.th, arr.dk := t.arr.dk } ∧
      ∀ l i,
        t.thAt l i = (if l < s.nLayers ∧ i < s.neurons l then (s.desc l).thr else s.thAt l i) ∧
        t.dkAt l i = (if l < s.nLayers ∧ i < s.neurons l then (s.desc l).decay else s.dkAt l i)

/-- R159, R160, R125: ZERO clears V and RF, CLRCNT clears COUNTS, VCLR clears SUM, each whole, and none needs a
configuration; nothing else but CMD changes. -/
def Obligations.ClearCommands : Prop :=
  ∀ s : State, Idle s →
    (∃ t, exec .zero s = .next t ∧ t = { issued .zero s with arr.v := t.arr.v, arr.rf := t.arr.rf } ∧
      ∀ l i, t.vAt l i = 0 ∧ t.rfAt l i = 0) ∧
    (∃ t, exec .clrcnt s = .next t ∧ t = { issued .clrcnt s with arr.counts := t.arr.counts } ∧
      ∀ i c, t.countAt i c = 0) ∧
    (∃ t, exec .vclr s = .next t ∧ t = { issued .vclr s with arr.sum := t.arr.sum } ∧ ∀ i, t.sumAt i = 0)

/-! ### The codec (spec/40_codec.md) -/

/-- R100, R102, R103, R177: QUANT of a NaN is refused with E_NAN; of anything else it writes the clamped and
rounded code, sign-extended, and leaves everything but CODEC_OUT and CMD unchanged. -/
def Obligations.QuantClampsAndRounds : Prop :=
  ∀ (s : State) (x : Word), Idle s → s.regs.codecIn = x →
    ((x.extractLsb' 23 8).toNat = 255 → x.extractLsb' 0 23 ≠ 0 → exec .quant s = .next (refusedNan s)) ∧
    ((x.extractLsb' 23 8).toNat = 255 → x.extractLsb' 0 23 = 0 →
      exec .quant s = .next { issued .quant s with
        regs.codecOut := if x.getLsbD 31 = true then BitVec.ofInt 32 (-128) else 127 }) ∧
    ((x.extractLsb' 23 8).toNat ≠ 255 →
      exec .quant s = .next { issued .quant s with
        regs.codecOut := BitVec.ofInt 32 (min 127 (max (-128) (roundRat (clampRat (floatRat x) * 128)))) })

/-- R101, R104: DEQUANT writes the binary32 pattern of `q / 128` for `q = sext_8(CODEC_IN[7:0])`, plus zero for 0
and the pattern of R104 otherwise, and leaves everything but CODEC_OUT and CMD unchanged. -/
def Obligations.DequantIsCodeOver128 : Prop :=
  ∀ (s : State) (q : Int), Idle s → q = (s.regs.codecIn.extractLsb' 0 8).toInt → ∃ w : Word,
    exec .dequant s = .next { issued .dequant s with regs.codecOut := w } ∧
    (w.extractLsb' 23 8).toNat ≠ 255 ∧ floatRat w = (q : ℚ) / 128 ∧ (q = 0 → w = 0) ∧
    ∀ p ≤ 7, 2 ^ p ≤ q.natAbs → q.natAbs < 2 ^ (p + 1) →
      w.toNat = (if q < 0 then 2 ^ 31 else 0) + (120 + p) * 2 ^ 23 + (q.natAbs - 2 ^ p) * 2 ^ (23 - p)

/-- R105: QUANT then DEQUANT comes back within 1/256 of a representable value in [-1, 127/128]; DEQUANT then QUANT
gives the code back. -/
def Obligations.CodecRoundTrip : Prop :=
  (∀ s : State, Idle s → (s.regs.codecIn.extractLsb' 23 8).toNat ≠ 255 → -1 ≤ floatRat s.regs.codecIn →
    floatRat s.regs.codecIn ≤ 127 / 128 →
    ∃ t u, exec .quant s = .next t ∧ exec .dequant { t with regs.codecIn := t.regs.codecOut } = .next u ∧
      |floatRat u.regs.codecOut - floatRat s.regs.codecIn| ≤ 1 / 256) ∧
  (∀ s : State, Idle s →
    ∃ t u, exec .dequant s = .next t ∧ exec .quant { t with regs.codecIn := t.regs.codecOut } = .next u ∧
      u.regs.codecOut = (s.regs.codecIn.extractLsb' 0 8).signExtend 32)

/-! ### The spike buffer (spec/41_spike_buffer.md) -/

/-- R113, R110, R112: SBGET reads bit `n mod 8` of byte `n div 8` of row `t` of the buffer in its role into BITRES;
nothing else but CMD changes. -/
def Obligations.SbgetReadsItsBit : Prop :=
  ∀ (s : State) (r : Role) (n t : Nat), Idle s → t < s.params.tau → n < s.params.maxNeurons →
    exec (.sbget r n t) s = .next { issued (.sbget r n t) s with
      regs.bitres := (s.sbAt (if r = .A then s.regs.status.sel else otherBuf s.regs.status.sel) t
        (n / 8)).getLsbD (n % 8) }

/-- R114, R111: SBSET sets or clears its one bit; every other bit of both buffers, and everything else but CMD,
keeps its value. -/
def Obligations.SbsetWritesItsBitOnly : Prop :=
  ∀ (s : State) (r : Role) (n t : Nat) (v : Bool), Idle s → t < s.params.tau → n < s.params.maxNeurons →
    ∃ u, exec (.sbset r n t v) s = .next u ∧
      u = { issued (.sbset r n t v) s with arr.sb0 := u.arr.sb0, arr.sb1 := u.arr.sb1 } ∧
      ∀ k n' t', u.sbGet k n' t' =
        if k = (if r = .A then s.regs.status.sel else otherBuf s.regs.status.sel) ∧ n' = n ∧ t' = t then v
        else s.sbGet k n' t'

/-- R115: SWAP toggles SEL and moves no byte; two SWAPs restore the roles. -/
def Obligations.SwapTogglesTheRoles : Prop :=
  ∀ s : State, Idle s →
    exec .swap s = .next { issued .swap s with
      regs.status.sel := if s.regs.status.sel = .sb0 then .sb1 else .sb0 } ∧
    ∃ t, execAll [.swap, .swap] s = .next t ∧ t.regs.status.sel = s.regs.status.sel

/-- R116, R71: LOADCH copies the chunk's source bits into rows 0 .. TAU - 1, bits 0 .. n(0) - 1 of buffer A; every
other bit of both buffers, and everything else but CMD, keeps its value. -/
def Obligations.LoadchCopiesSourceBits : Prop :=
  ∀ (s : State) (c k : Nat), Ready s → c < s.params.nChunks →
    s.regs.srcBase.toNat + (k * s.params.timeWindow + (c * s.params.tau + s.params.tau - 1)) *
      ((s.neurons 0 + 7) / 8) + (s.neurons 0 - 1) / 8 < 2 ^ 32 →
    ∃ u, exec (.loadch c k) s = .next u ∧
      u = { issued (.loadch c k) s with arr.sb0 := u.arr.sb0, arr.sb1 := u.arr.sb1 } ∧
      ∀ b n t, u.sbGet b n t =
        if b = s.regs.status.sel ∧ n < s.neurons 0 ∧ t < s.params.tau then
          (s.tmemAt (s.regs.srcBase.toNat + (k * s.params.timeWindow + (c * s.params.tau + t)) *
            ((s.neurons 0 + 7) / 8) + n / 8)).getLsbD (n % 8)
        else s.sbGet b n t

/-! ### The elementwise ALU (spec/42_alu.md) -/

/-- R126, R122, R120: VSCALE. -/
def Obligations.VscaleMultipliesByDecay : Prop :=
  ∀ (s : State) (l : Nat), Ready s → l < s.nLayers →
    ∃ t, exec (.vscale l) s = .next t ∧
      t = { issued (.vscale l) s with
            arr.v := t.arr.v,
            regs.status.ovf := s.regs.status.ovf || (List.range (s.neurons l)).any
              (fun i => !fits32 ((s.vAt l i).toInt * (s.dkAt l i).toInt / 128)) } ∧
      ∀ l' i, t.vAt l' i =
        if l' = l ∧ i < s.neurons l then BitVec.ofInt 32 ((s.vAt l i).toInt * (s.dkAt l i).toInt / 128)
        else s.vAt l' i

/-- R127, R121, R120: VADD. -/
def Obligations.VaddAddsTheSums : Prop :=
  ∀ (s : State) (l : Nat), Ready s → l < s.nLayers →
    ∃ t, exec (.vadd l) s = .next t ∧
      t = { issued (.vadd l) s with
            arr.v := t.arr.v,
            regs.status.ovf := s.regs.status.ovf || (List.range (s.neurons l)).any
              (fun i => !fits32 ((s.vAt l i).toInt + (s.sumAt i).toInt)) } ∧
      ∀ l' i, t.vAt l' i =
        if l' = l ∧ i < s.neurons l then BitVec.ofInt 32 ((s.vAt l i).toInt + (s.sumAt i).toInt)
        else s.vAt l' i

/-- R128, R123: VCMP sets the reset flag of exactly the neurons at or above their threshold; nothing else but CMD
changes. -/
def Obligations.VcmpComparesWithThreshold : Prop :=
  ∀ (s : State) (l : Nat), Ready s → l < s.nLayers →
    ∃ t, exec (.vcmp l) s = .next t ∧ t = { issued (.vcmp l) s with arr.rf := t.arr.rf } ∧
      ∀ l' i, t.rfAt l' i =
        if l' = l ∧ i < s.neurons l then (if (s.thAt l i).toInt ≤ (s.vAt l i).toInt then 1 else 0)
        else s.rfAt l' i

/-- R129, R121: VSUBT subtracts the threshold where RF = 1 and writes no other lane. -/
def Obligations.VsubtSubtractsWhereFired : Prop :=
  ∀ (s : State) (l : Nat), Ready s → l < s.nLayers →
    ∃ t, exec (.vsubt l) s = .next t ∧
      t = { issued (.vsubt l) s with
            arr.v := t.arr.v,
            regs.status.ovf := s.regs.status.ovf || (List.range (s.neurons l)).any
              (fun i => decide (s.rfAt l i = 1) && !fits32 ((s.vAt l i).toInt - (s.thAt l i).toInt)) } ∧
      ∀ l' i, t.vAt l' i =
        if l' = l ∧ i < s.neurons l ∧ s.rfAt l i = 1 then
          BitVec.ofInt 32 ((s.vAt l i).toInt - (s.thAt l i).toInt)
        else s.vAt l' i

/-- R130: VPACK writes the flags of layer `l` into bits 0 .. n(l) - 1 of row `t` of buffer B; every other bit of
both buffers, and everything else but CMD, keeps its value. -/
def Obligations.VpackPacksTheFlags : Prop :=
  ∀ (s : State) (l t : Nat), Ready s → l < s.nLayers → t < s.params.tau →
    ∃ u, exec (.vpack l t) s = .next u ∧
      u = { issued (.vpack l t) s with arr.sb0 := u.arr.sb0, arr.sb1 := u.arr.sb1 } ∧
      ∀ b n t', u.sbGet b n t' =
        if b = otherBuf s.regs.status.sel ∧ n < s.neurons l ∧ t' = t then decide (s.rfAt l n = 1)
        else s.sbGet b n t'

/-! ### Event-driven accumulation (spec/43_accumulate.md) -/

/-- R136 with R68, R70: VBIAS sets `SUM[0 .. n(l) - 1]` to 0 on an Input layer, to the neurons' biases on a
FullyConnected layer, to the filters' biases on a Conv layer; nothing else but CMD changes. -/
def Obligations.VbiasSetsTheBiases : Prop :=
  ∀ (s : State) (l : Nat), Ready s → l < s.nLayers →
    ((s.desc l).kind = 1 → s.kSide l ≤ s.inSide l) →
    ∃ t, exec (.vbias l) s = .next t ∧ t = { issued (.vbias l) s with arr.sum := t.arr.sum } ∧
      (∀ i, s.neurons l ≤ i → t.sumAt i = s.sumAt i) ∧
      ((s.desc l).kind = 0 → ∀ i < s.neurons l, t.sumAt i = 0) ∧
      ((s.desc l).kind = 2 → ∀ i < s.neurons l, t.sumAt i = (s.tmemAt (s.bbase l + i)).signExtend 32) ∧
      ((s.desc l).kind = 1 → ∀ i < s.neurons l,
        t.sumAt i = (s.tmemAt (s.bbase l + i / (s.inSide l - s.kSide l + 1) ^ 2)).signExtend 32)

/-- R138: EVACC on an Input layer adds ONE_SPIKE_CONTRIBUTION to the neuron of its input and to no other. -/
def Obligations.EvaccInput : Prop :=
  ∀ (s : State) (l j : Nat), Ready s → l < s.nLayers → j < s.nIn l → (s.desc l).kind = 0 →
    ∃ t, exec (.evacc l j) s = .next t ∧
      t = { issued (.evacc l j) s with
            arr.sum := t.arr.sum,
            regs.status.ovf := s.regs.status.ovf || !fits32 ((s.sumAt j).toInt + s.params.oneSpike.toInt) } ∧
      ∀ i, t.sumAt i =
        if i = j then BitVec.ofInt 32 ((s.sumAt j).toInt + s.params.oneSpike.toInt) else s.sumAt i

/-- R139, R67: EVACC on a FullyConnected layer adds the weight from input `j` to neuron `i` to every neuron's
accumulator. -/
def Obligations.EvaccFullyConnected : Prop :=
  ∀ (s : State) (l j : Nat), Ready s → l < s.nLayers → j < s.nIn l → (s.desc l).kind = 2 →
    ∃ t, exec (.evacc l j) s = .next t ∧
      t = { issued (.evacc l j) s with
            arr.sum := t.arr.sum,
            regs.status.ovf := s.regs.status.ovf || (List.range (s.neurons l)).any
              (fun i => !fits32 ((s.sumAt i).toInt + (s.tmemAt (s.wbase l + i * s.nIn l + j)).toInt)) } ∧
      ∀ i, t.sumAt i =
        if i < s.neurons l then
          BitVec.ofInt 32 ((s.sumAt i).toInt + (s.tmemAt (s.wbase l + i * s.nIn l + j)).toInt)
        else s.sumAt i

/-- R140, R69: EVACC on a Conv layer adds, for the event's pixel (y0, x0), the weight of offset
(y0 - y, x0 - x) to every output position (y, x) that offset reaches, in every filter, and changes no other
accumulator. -/
def Obligations.EvaccConv : Prop :=
  ∀ (s : State) (l j size k o y0 x0 : Nat), Ready s → l < s.nLayers → j < s.nIn l → (s.desc l).kind = 1 →
    s.inSide l = size → s.kSide l = k → k ≤ size → o = size - k + 1 → y0 = j / size → x0 = j % size →
    ∃ t, exec (.evacc l j) s = .next t ∧
      t = { issued (.evacc l j) s with arr.sum := t.arr.sum, regs.status.ovf := t.regs.status.ovf } ∧
      (∀ f < s.filters l, ∀ y < o, ∀ x < o,
        t.sumAt (f * o ^ 2 + y * o + x) =
          if y ≤ y0 ∧ y0 - y < k ∧ x ≤ x0 ∧ x0 - x < k then
            BitVec.ofInt 32 ((s.sumAt (f * o ^ 2 + y * o + x)).toInt +
              (s.tmemAt (s.wbase l + ((y0 - y) * k + (x0 - x)) * s.filters l + f)).toInt)
          else s.sumAt (f * o ^ 2 + y * o + x)) ∧
      (∀ i, s.filters l * o ^ 2 ≤ i → t.sumAt i = s.sumAt i) ∧
      (t.regs.status.ovf = true ↔ s.regs.status.ovf = true ∨
        ∃ f < s.filters l, ∃ y < o, ∃ x < o, y ≤ y0 ∧ y0 - y < k ∧ x ≤ x0 ∧ x0 - x < k ∧
          fits32 ((s.sumAt (f * o ^ 2 + y * o + x)).toInt +
            (s.tmemAt (s.wbase l + ((y0 - y) * k + (x0 - x)) * s.filters l + f)).toInt) = false)

/-- R142, R144 for Input and FullyConnected layers: what ACCUM leaves in SUM, exactly, with OVF unchanged. -/
def Obligations.AccumDirect : Prop :=
  ∀ (s : State) (l t : Nat), Ready s → l < s.nLayers → t < s.params.tau →
    ((s.desc l).kind = 0 ∧ l = 0) ∨ (s.desc l).kind = 2 →
    ∃ u, exec (.accum l t) s = .next u ∧ u = { issued (.accum l t) s with arr.sum := u.arr.sum } ∧
      (∀ i, s.neurons l ≤ i → u.sumAt i = s.sumAt i) ∧
      ((s.desc l).kind = 0 → ∀ i < s.neurons l,
        u.sumAt i = if s.sbGet s.regs.status.sel i t = true then s.params.oneSpike else 0) ∧
      ((s.desc l).kind = 2 → ∀ i < s.neurons l,
        (u.sumAt i).toInt = (s.tmemAt (s.bbase l + i)).toInt +
          ∑ j ∈ Finset.range (s.nIn l),
            if s.sbGet s.regs.status.sel j t = true then (s.tmemAt (s.wbase l + i * s.nIn l + j)).toInt else 0)

/-- R142, R144 for Conv layers, "event-driven convolution output equals a dense reference convolution": what ACCUM
leaves in SUM, exactly, with OVF unchanged, for the geometry INIT has checked. -/
def Obligations.AccumConvDense : Prop :=
  ∀ (s : State) (l t size k o : Nat), Ready s → l < s.nLayers → t < s.params.tau → (s.desc l).kind = 1 →
    s.inSide l = size → s.kSide l = k → k ≤ size → o = size - k + 1 → size * size = s.nIn l →
    s.filters l * o ^ 2 = s.neurons l →
    ∃ u, exec (.accum l t) s = .next u ∧ u = { issued (.accum l t) s with arr.sum := u.arr.sum } ∧
      (∀ i, s.neurons l ≤ i → u.sumAt i = s.sumAt i) ∧
      ∀ f < s.filters l, ∀ y < o, ∀ x < o,
        (u.sumAt (f * o ^ 2 + y * o + x)).toInt = (s.tmemAt (s.bbase l + f)).toInt +
          ∑ ky ∈ Finset.range k, ∑ kx ∈ Finset.range k,
            if s.sbGet s.regs.status.sel ((y + ky) * size + (x + kx)) t = true then
              (s.tmemAt (s.wbase l + (ky * k + kx) * s.filters l + f)).toInt
            else 0

/-! ### The LIF update (spec/44_lif_layer.md) -/

/-- R145, R146, R147, R149: LIFSTEP per neuron, from the sums ACCUM leaves: the potential, the reset flag, the
output bit and the wraps; no other layer, row or bit changes. -/
def Obligations.LifstepUpdatesEachNeuron : Prop :=
  ∀ (s : State) (l t : Nat), Ready s → l < s.nLayers → t < s.params.tau →
    ∃ a u, exec (.accum l t) s = .next a ∧ exec (.lifstep l t) s = .next u ∧
      u = { issued (.lifstep l t) s with
            arr.v := u.arr.v, arr.rf := u.arr.rf, arr.sum := a.arr.sum, arr.sb0 := u.arr.sb0,
            arr.sb1 := u.arr.sb1,
            regs.status.ovf := a.regs.status.ovf || (List.range (s.neurons l)).any (fun i =>
              lifWraps (!s.regs.ifMode) (s.vAt l i).toInt (s.dkAt l i).toInt (a.sumAt i).toInt
                (s.thAt l i).toInt) } ∧
      (∀ l' i,
        u.vAt l' i = (if l' = l ∧ i < s.neurons l then
          BitVec.ofInt 32 (lifRest (!s.regs.ifMode) (s.vAt l i).toInt (s.dkAt l i).toInt (a.sumAt i).toInt
            (s.thAt l i).toInt) else s.vAt l' i) ∧
        u.rfAt l' i = (if l' = l ∧ i < s.neurons l then
          BitVec.ofBool (lifFires (!s.regs.ifMode) (s.vAt l i).toInt (s.dkAt l i).toInt (a.sumAt i).toInt
            (s.thAt l i).toInt) else s.rfAt l' i)) ∧
      ∀ b n t', u.sbGet b n t' =
        if b = otherBuf s.regs.status.sel ∧ n < s.neurons l ∧ t' = t then
          lifFires (!s.regs.ifMode) (s.vAt l n).toInt (s.dkAt l n).toInt (a.sumAt n).toInt (s.thAt l n).toInt
        else s.sbGet b n t'

/-- R167: ACCUM equals VBIAS followed by EVACC for each set input bit, and LIFSTEP equals ACCUM, VSCALE when
IF_MODE = 0, VADD, VCMP, VSUBT, VPACK, except for CMD. -/
def Obligations.LifstepSequence : Prop :=
  ∀ (s : State) (l t : Nat), Ready s → l < s.nLayers → t < s.params.tau →
    (∃ u v, exec (.accum l t) s = .next u ∧
      execAll (.vbias l :: ((List.range (s.nIn l)).filter
        (fun j => s.sbGet s.regs.status.sel j t)).map (Instr.evacc l)) s = .next v ∧
      u = { v with regs.cmd := encode (.accum l t) }) ∧
    ∃ u v, exec (.lifstep l t) s = .next u ∧
      execAll ([.accum l t] ++ (if s.regs.ifMode = true then [] else [.vscale l]) ++
        [.vadd l, .vcmp l, .vsubt l, .vpack l t]) s = .next v ∧
      u = { v with regs.cmd := encode (.lifstep l t) }

/-- R148, R167, R149: LAYER equals LIFSTEP for t = 0 .. TAU - 1, except for CMD; it does not swap, and it changes
V and RF of its own layer only and no bit of buffer A. -/
def Obligations.LayerSequence : Prop :=
  ∀ (s : State) (l : Nat), Ready s → l < s.nLayers →
    ∃ u v, exec (.layer l) s = .next u ∧
      execAll ((List.range s.params.tau).map (Instr.lifstep l)) s = .next v ∧
      u = { v with regs.cmd := encode (.layer l), stale := [] } ∧
      u = { issued (.layer l) s with
            arr.v := u.arr.v, arr.rf := u.arr.rf, arr.sum := u.arr.sum, arr.sb0 := u.arr.sb0,
            arr.sb1 := u.arr.sb1, regs.status.ovf := u.regs.status.ovf } ∧
      (∀ l' i, l' ≠ l ∨ s.neurons l ≤ i → u.vAt l' i = s.vAt l' i ∧ u.rfAt l' i = s.rfAt l' i) ∧
      ∀ b n t, b = s.regs.status.sel ∨ s.neurons l ≤ n ∨ s.params.tau ≤ t → u.sbGet b n t = s.sbGet b n t

/-- R147: the non-leaky variant gives the same results as the leaky one with every decay rate 128. -/
def Obligations.NonLeakyEqualsDecayOne : Prop :=
  ∀ (s : State) (l t : Nat), Ready s → l < s.nLayers → t < s.params.tau → TableWf s.arr.v →
    (∀ i < s.neurons l, s.dkAt l i = 128) →
    ∃ u v, exec (.lifstep l t) { s with regs.ifMode := true } = .next u ∧
      exec (.lifstep l t) { s with regs.ifMode := false } = .next v ∧ v = { u with regs.ifMode := false }

/-- R150 (c): an Input neuron whose threshold is ONE_SPIKE_CONTRIBUTION > 0 and whose potential is 0 passes its
input bits through at every timestep, with any decay rate and either IF_MODE, and its potential stays 0. -/
def Obligations.InputPassthrough : Prop :=
  ∀ (s : State) (i : Nat), Ready s → 0 < s.nLayers → (s.desc 0).kind = 0 → i < s.neurons 0 → s.vAt 0 i = 0 →
    (s.thAt 0 i).toInt = s.params.oneSpike.toInt → 0 < s.params.oneSpike.toInt →
    ∃ u, exec (.layer 0) s = .next u ∧ u.vAt 0 i = 0 ∧
      ∀ t < s.params.tau,
        u.sbGet (otherBuf s.regs.status.sel) i t = s.sbGet s.regs.status.sel i t

/-- R150 (b): with 0 <= DK < 128 and an input that stays within 0 .. c each step, a neuron that starts at 0 never
fires when 128 * c < (128 - DK) * TH, and its potential stays below the bound 128 * c / (128 - DK); here the input
is what an Input layer injects, ONE_SPIKE_CONTRIBUTION or 0. -/
def Obligations.SubThresholdNeverFires : Prop :=
  ∀ (s : State) (i : Nat) (d c th : Int), Ready s → 0 < s.nLayers → (s.desc 0).kind = 0 → s.regs.ifMode = false →
    i < s.neurons 0 → s.vAt 0 i = 0 → d = (s.dkAt 0 i).toInt → c = s.params.oneSpike.toInt →
    th = (s.thAt 0 i).toInt → 0 ≤ d → d < 128 → 0 ≤ c → 128 * c < (128 - d) * th →
    ∃ u, exec (.layer 0) s = .next u ∧
      (∀ t < s.params.tau, u.sbGet (otherBuf s.regs.status.sel) i t = false) ∧
      0 ≤ (u.vAt 0 i).toInt ∧ (128 - d) * (u.vAt 0 i).toInt ≤ 128 * c

/-! ### Counting, classification and the whole inference (spec/45_pipeline.md) -/

/-- R161: COUNT adds to `COUNTS[i][c]` the number of set bits of neuron `i` in the TAU rows of buffer A, modulo
2^32, with OVF on a wrap; no other count and nothing else but CMD changes. -/
def Obligations.CountCountsSetBits : Prop :=
  ∀ (s : State) (c last : Nat) (bits : Nat → Nat), Ready s → c < s.params.nChunks → last = s.nLayers - 1 →
    (∀ i, bits i = ((List.range s.params.tau).filter (fun t => s.sbGet s.regs.status.sel i t)).length) →
    ∃ u, exec (.count c) s = .next u ∧
      u = { issued (.count c) s with
            arr.counts := u.arr.counts,
            regs.status.ovf := s.regs.status.ovf || (List.range (s.neurons last)).any
              (fun i => decide (2 ^ 32 ≤ (s.countAt i c).toNat + bits i)) } ∧
      ∀ i c', u.countAt i c' =
        if c' = c ∧ i < s.neurons last then BitVec.ofNat 32 ((s.countAt i c).toNat + bits i)
        else s.countAt i c'

/-- R162, R33: CLASSIFY writes "no class" when every total is 0, else the least neuron whose exact total over the
chunks is the greatest; nothing else but CMD changes. -/
def Obligations.ClassifyIsLeastArgmax : Prop :=
  ∀ (s : State) (last : Nat) (total : Nat → Nat), Ready s → last = s.nLayers - 1 →
    (∀ i, total i = ∑ c ∈ Finset.range s.params.nChunks, (s.countAt i c).toNat) →
    ∃ w : Word, exec .classify s = .next { issued .classify s with regs.result := w } ∧
      ((∀ i < s.neurons last, total i = 0) → w = 0x80000000) ∧
      ∀ i < s.neurons last, 0 < total i → (∀ j < s.neurons last, total j ≤ total i) →
        (∀ j < i, total j < total i) → w = BitVec.ofNat 32 i

/-- R163, R167: RUN equals ZERO, CLRCNT, then for each chunk LOADCH, each layer's LAYER and a SWAP, COUNT, and last
CLASSIFY, issued as separate commands, except for CMD. -/
def Obligations.RunSequence : Prop :=
  ∀ (s : State) (k : Nat), Ready s → s.params.Valid →
    s.regs.srcBase.toNat + (k * s.params.timeWindow + s.params.timeWindow - 1) * ((s.neurons 0 + 7) / 8) +
      (s.neurons 0 + 7) / 8 - 1 < 2 ^ 32 →
    ∃ u v, exec (.run k) s = .next u ∧
      execAll ([.zero, .clrcnt] ++
        (List.range s.params.nChunks).flatMap (fun c =>
          [Instr.loadch c k] ++ (List.range s.nLayers).flatMap (fun l => [Instr.layer l, .swap]) ++
            [Instr.count c]) ++ [.classify]) s = .next v ∧
      u = { v with regs.cmd := encode (.run k) }

/-- R163: what RUN changes, and SEL: toggled NCHUNKS * NLAYERS times, so its old value after an even number and
the other after an odd one. -/
def Obligations.RunFrame : Prop :=
  ∀ (s : State) (k : Nat), Ready s →
    s.regs.srcBase.toNat + (k * s.params.timeWindow + s.params.timeWindow - 1) * ((s.neurons 0 + 7) / 8) +
      (s.neurons 0 + 7) / 8 - 1 < 2 ^ 32 →
    ∃ u, exec (.run k) s = .next u ∧
      u = { issued (.run k) s with
            arr.v := u.arr.v, arr.rf := u.arr.rf, arr.sum := u.arr.sum, arr.counts := u.arr.counts,
            arr.sb0 := u.arr.sb0, arr.sb1 := u.arr.sb1, regs.result := u.regs.result,
            regs.status.ovf := u.regs.status.ovf,
            regs.status.sel := if s.params.nChunks * s.nLayers % 2 = 0 then s.regs.status.sel
              else otherBuf s.regs.status.sel }

/-- R166: two RUNs of the same sample with the same topology, thresholds, decay rates and tables give the same
COUNTS and RESULT, whatever potentials, flags, sums, counts and buffers stood before. -/
def Obligations.RunDeterminism : Prop :=
  ∀ (s₁ s₂ : State) (k : Nat), Ready s₁ → Ready s₂ → s₁.params.Valid → s₂.params = s₁.params →
    s₂.regs.nlayers = s₁.regs.nlayers → s₂.regs.layers = s₁.regs.layers → s₂.regs.ifMode = s₁.regs.ifMode →
    s₂.regs.srcBase = s₁.regs.srcBase → s₂.arr.th = s₁.arr.th → s₂.arr.dk = s₁.arr.dk →
    s₂.tmem = s₁.tmem → cfgError s₁ = none →
    s₁.regs.srcBase.toNat + (k * s₁.params.timeWindow + s₁.params.timeWindow - 1) *
      ((s₁.neurons 0 + 7) / 8) + (s₁.neurons 0 + 7) / 8 - 1 < 2 ^ 32 →
    ∃ t₁ t₂, exec (.run k) s₁ = .next t₁ ∧ exec (.run k) s₂ = .next t₂ ∧
      t₂.regs.result = t₁.regs.result ∧ ∀ i c, t₂.countAt i c = t₁.countAt i c

/-! ### Invariants and whole-machine rules -/

/-- The machine right after reset satisfies the invariant, and the ranges of its arrays, for every parameter set of
this hardware, every array contents and every TMEM in canonical form; the named reset state among them, whose
parameters and contents are the model's choice (log entries 1, 2, 3). -/
def Obligations.InvAtReset : Prop :=
  (Inv State.reset ∧ InRange State.reset) ∧
  ∀ (p : Params) (a : Arrays) (m : List Host.Cell), p.Valid → ArraysWf a → Memory.wf m →
    Inv (State.afterReset p a m) ∧ (ArraysInRange p a → InRange (State.afterReset p a m))

/-- From every state that meets the invariant, a step answers a next state, never a fault or a refusal, and the
next state meets it too. -/
def Obligations.StepKeepsInv : Prop := ∀ s : State, Inv s → ∃ t, step s = .next t ∧ Inv t

/-- R203: no command, no transaction and no reset writes an element outside its array. -/
def Obligations.ArraysStayInRange : Prop :=
  ∀ s t : State, Inv s → InRange s → step s = .next t → InRange t

/-- R47, "topology fixed at initialization": while CONFIGURED stays 1, no step changes CTRL, NLAYERS or a
descriptor. -/
def Obligations.TopologyFixed : Prop :=
  ∀ s t : State, step s = .next t → s.regs.status.configured = true → t.regs.status.configured = true →
    t.regs.nlayers = s.regs.nlayers ∧ t.regs.layers = s.regs.layers ∧ t.regs.ifMode = s.regs.ifMode

/-- R62: no step changes a TMEM byte, except the platform's own store, which changes its one byte. -/
def Obligations.TmemIsReadOnly : Prop :=
  ∀ s t : State, step s = .next t → t.params = s.params ∧
    ((∀ a b, s.inputs.head? ≠ some (.tmemWrite a b)) → t.tmem = s.tmem) ∧
    ∀ a b, s.inputs.head? = some (.tmemWrite a b) →
      ∀ x, t.tmemAt x = if x = a.toNat then b else s.tmemAt x

/-- R76, R63 (the model's record and free value, log entry 4).  While BUSY = 1 the record holds exactly the bytes the
platform's stores replaced since acceptance: acceptance empties it, each store while BUSY = 1 adds the byte that
stood at its address, and no other step that ends with BUSY = 1 changes it; a store while BUSY = 0 records nothing.
A read of a recorded address returns the byte that stands there now or a recorded one, whichever; every other read
returns the byte at its address; a read draws at most a free choice. -/
def Obligations.ChangedByteReadsOldOrNew : Prop :=
  (∀ (s : State) (a : Word) (b : Byte), ∃ t, step (given (.tmemWrite a b) s) = .next t ∧
    t = { s with
          tmem := t.tmem
          stale := if s.regs.status.busy = true then (a.toNat, s.tmemAt a.toNat) :: s.stale else s.stale }) ∧
  (∀ s t : State, step s = .next t → (∀ a b, s.inputs.head? ≠ some (.tmemWrite a b)) →
    t.regs.status.busy = true → t.stale = if s.regs.status.busy = true then s.stale else []) ∧
  ∀ (s : State) (a : Nat),
    ((s.memRead a).1 = s.tmemAt a ∨ (a, (s.memRead a).1) ∈ s.stale) ∧
    ((∀ b, (a, b) ∉ s.stale) → (s.memRead a).1 = s.tmemAt a) ∧
    (s.memRead a).2 = { s with draws := (s.memRead a).2.draws }
end

