-- ==== Sys2Proof/Laws/Table.lean ====
section
/-! SUPPORT. Read-after-write and canonical form for sparse tables.  The read laws need no canonical form. -/

namespace Sys2Proof.Machine

section Read
variable {κ : Type} [DecidableEq κ] {w : Nat}

@[simp] theorem cellGet_nil (k : κ) : cellGet ([] : Cells κ w) k = 0 := rfl

theorem cellGet_cons (c : κ × BitVec w) (t : Cells κ w) (k : κ) :
    cellGet (c :: t) k = if c.1 = k then c.2 else cellGet t k := rfl

theorem cellGet_filter_self (k : κ) (t : Cells κ w) :
    cellGet (t.filter (fun c => decide (c.1 ≠ k))) k = 0 := by
  induction t with
  | nil => rfl
  | cons c t ih => by_cases h : c.1 = k <;> simp_all [cellGet_cons]

theorem cellGet_filter_ne {k k' : κ} (h : k' ≠ k) (t : Cells κ w) :
    cellGet (t.filter (fun c => decide (c.1 ≠ k))) k' = cellGet t k' := by
  induction t with
  | nil => rfl
  | cons c t ih =>
    by_cases hc : c.1 = k
    · have : c.1 ≠ k' := fun e => h (e ▸ hc)
      simp_all [cellGet_cons]
    · simp_all [cellGet_cons]

theorem cellGet_insert_self (lt : κ → κ → Bool) (k : κ) (x : BitVec w) (t : Cells κ w) :
    cellGet (cellInsert lt k x t) k = x := by
  induction t with
  | nil => simp [cellInsert, cellGet_cons]
  | cons c t ih =>
    unfold cellInsert
    split
    · simp [cellGet_cons]
    · split
      · simp [cellGet_cons]
      · simp_all [cellGet_cons]

theorem cellGet_insert_ne (lt : κ → κ → Bool) {k k' : κ} (h : k' ≠ k) (x : BitVec w) (t : Cells κ w) :
    cellGet (cellInsert lt k x t) k' = cellGet t k' := by
  induction t with
  | nil => simp [cellInsert, cellGet_cons, Ne.symm h]
  | cons c t ih =>
    unfold cellInsert
    split
    · have : c.1 ≠ k' := fun e => h (by simp_all)
      simp [cellGet_cons, Ne.symm h, this]
    · split
      · simp [cellGet_cons, Ne.symm h]
      · simp [cellGet_cons, ih]

/-- Everything a store does to reads. -/
theorem cellGet_cellSet (lt : κ → κ → Bool) (k k' : κ) (x : BitVec w) (t : Cells κ w) :
    cellGet (cellSet lt k x t) k' = if k' = k then x else cellGet t k' := by
  unfold cellSet
  split <;> split
  · next hx hk => rw [hk, hx]; exact cellGet_filter_self k t
  · exact cellGet_filter_ne ‹_› t
  · next hk => rw [hk]; exact cellGet_insert_self lt k x t
  · exact cellGet_insert_ne lt ‹_› x t

@[simp] theorem cellGet_cellSet_self (lt : κ → κ → Bool) (k : κ) (x : BitVec w) (t : Cells κ w) :
    cellGet (cellSet lt k x t) k = x := by simp [cellGet_cellSet]

@[simp] theorem cellGet_cellSet_ne (lt : κ → κ → Bool) {k k' : κ} (h : k' ≠ k) (x : BitVec w)
    (t : Cells κ w) : cellGet (cellSet lt k x t) k' = cellGet t k' := by simp [cellGet_cellSet, h]

theorem mem_cellInsert {lt : κ → κ → Bool} {k : κ} {x : BitVec w} {t : Cells κ w} {c : κ × BitVec w}
    (h : c ∈ cellInsert lt k x t) : c = (k, x) ∨ c ∈ t := by
  induction t with
  | nil => simp_all [cellInsert]
  | cons d t ih =>
    unfold cellInsert at h
    split at h
    · rcases List.mem_cons.1 h with h | h <;> simp [h]
    · split at h
      · rcases List.mem_cons.1 h with h | h
        · simp [h]
        · exact .inr h
      · rcases List.mem_cons.1 h with h | h
        · simp [h]
        · rcases ih h with h | h <;> simp [h]

/-- What a store lists: the stored cell, unless it is 0, and cells that stood there. -/
theorem mem_cellSet {lt : κ → κ → Bool} {k : κ} {x : BitVec w} {t : Cells κ w} {c : κ × BitVec w}
    (h : c ∈ cellSet lt k x t) : (c = (k, x) ∧ x ≠ 0) ∨ c ∈ t := by
  unfold cellSet at h
  split at h
  · exact .inr (List.mem_of_mem_filter h)
  · rcases mem_cellInsert h with h | h
    · exact .inl ⟨h, ‹_›⟩
    · exact .inr h

theorem cellInsert_pairwise {lt : κ → κ → Bool} (trans : ∀ a b c, lt a b = true → lt b c = true → lt a c = true)
    (tri : ∀ a b, a ≠ b → lt a b = false → lt b a = true) (k : κ) (x : BitVec w) (t : Cells κ w)
    (h : t.Pairwise (fun a b => lt a.1 b.1 = true)) :
    (cellInsert lt k x t).Pairwise (fun a b => lt a.1 b.1 = true) := by
  induction t with
  | nil => simp [cellInsert]
  | cons c t ih =>
    obtain ⟨hc, ht⟩ := List.pairwise_cons.1 h
    unfold cellInsert
    split
    · next e =>
      refine List.pairwise_cons.2 ⟨fun d hd => ?_, ht⟩
      simpa [e] using hc d hd
    · next ne =>
      split
      · next hlt =>
        refine List.pairwise_cons.2 ⟨fun d hd => ?_, h⟩
        rcases List.mem_cons.1 hd with rfl | hd
        · exact hlt
        · exact trans _ _ _ hlt (hc d hd)
      · next hlt =>
        refine List.pairwise_cons.2 ⟨fun d hd => ?_, ih ht⟩
        rcases mem_cellInsert hd with rfl | hd
        · exact tri _ _ (Ne.symm ne) (by simpa using hlt)
        · exact hc d hd

theorem cellSet_pairwise {lt : κ → κ → Bool} (trans : ∀ a b c, lt a b = true → lt b c = true → lt a c = true)
    (tri : ∀ a b, a ≠ b → lt a b = false → lt b a = true) (k : κ) (x : BitVec w) (t : Cells κ w)
    (h : t.Pairwise (fun a b => lt a.1 b.1 = true)) :
    (cellSet lt k x t).Pairwise (fun a b => lt a.1 b.1 = true) := by
  unfold cellSet
  split
  · exact h.filter _
  · exact cellInsert_pairwise trans tri k x t h

end Read

theorem addrLt_trans (a b c : Nat) (h : addrLt a b = true) (h' : addrLt b c = true) : addrLt a c = true := by
  simp only [addrLt, decide_eq_true_eq] at *; omega

theorem addrLt_tri (a b : Nat) (h : a ≠ b) (h' : addrLt a b = false) : addrLt b a = true := by
  simp only [addrLt, decide_eq_true_eq, decide_eq_false_iff_not] at *; omega

theorem pairLt_iff (a b : Nat × Nat) : pairLt a b = true ↔ a.1 < b.1 ∨ (a.1 = b.1 ∧ a.2 < b.2) := by
  simp [pairLt]

theorem pairLt_trans (a b c : Nat × Nat) (h : pairLt a b = true) (h' : pairLt b c = true) :
    pairLt a c = true := by
  rw [pairLt_iff] at *; omega

theorem pairLt_tri (a b : Nat × Nat) (h : a ≠ b) (h' : pairLt a b = false) : pairLt b a = true := by
  have hn : ¬pairLt a b = true := by simp [h']
  rw [pairLt_iff] at *
  have : ¬(a.1 = b.1 ∧ a.2 = b.2) := fun e => h (Prod.ext e.1 e.2)
  omega

/-- Every store into an array keeps its canonical form. -/
theorem tableWf_cellSet {w : Nat} {t : Table w} (h : TableWf t) (k : Nat × Nat) (x : BitVec w) :
    TableWf (cellSet pairLt k x t) := by
  refine ⟨cellSet_pairwise pairLt_trans pairLt_tri k x t h.1, fun c hc => ?_⟩
  rcases mem_cellSet hc with ⟨rfl, hx⟩ | hc
  · exact hx
  · exact h.2 c hc

/-- Every store into TMEM below 2^32 keeps its canonical form. -/
theorem memory_wf_cellSet {m : List Host.Cell} (h : Memory.wf m) {a : Nat} (ha : a < 2 ^ 32) (b : Byte) :
    Memory.wf (cellSet addrLt a b m) := by
  refine ⟨cellSet_pairwise addrLt_trans addrLt_tri a b m h.1, fun c hc => ?_⟩
  rcases mem_cellSet hc with ⟨rfl, hx⟩ | hc
  · exact ⟨hx, ha⟩
  · exact h.2 c hc

theorem memory_wf_nil : Memory.wf [] := ⟨.nil, by simp⟩

theorem tableWf_nil {w : Nat} : TableWf ([] : Table w) := ⟨.nil, by simp⟩

/-- The memory and the arrays of `State.reset` are in canonical form. -/
theorem reset_wf : Memory.wf State.reset.tmem ∧ ArraysWf State.reset.arr :=
  ⟨memory_wf_nil, tableWf_nil, tableWf_nil, tableWf_nil, tableWf_nil, tableWf_nil, tableWf_nil, tableWf_nil,
    tableWf_nil⟩

theorem cellGet_of_all_ne {κ : Type} [DecidableEq κ] {w : Nat} {t : Cells κ w} {k : κ}
    (h : ∀ c ∈ t, c.1 ≠ k) : cellGet t k = 0 := by
  induction t with
  | nil => rfl
  | cons c t ih =>
    rw [cellGet_cons, if_neg (h c (by simp)), ih (fun d hd => h d (by simp [hd]))]

theorem pairLt_irrefl (a : Nat × Nat) : pairLt a a = false := by
  rw [← Bool.not_eq_true, pairLt_iff]; omega

/-- Two canonical arrays that read alike are the same data. -/
theorem table_ext {w : Nat} {t u : Table w} (ht : TableWf t) (hu : TableWf u)
    (h : ∀ k, cellGet t k = cellGet u k) : t = u := by
  induction t generalizing u with
  | nil =>
    cases u with
    | nil => rfl
    | cons d u =>
      have := h d.1
      simp [cellGet_cons] at this
      exact absurd this.symm (hu.2 d (by simp))
  | cons c t ih =>
    obtain ⟨hc, htp⟩ := List.pairwise_cons.1 ht.1
    cases u with
    | nil =>
      have := h c.1
      simp [cellGet_cons] at this
      exact absurd this (ht.2 c (by simp))
    | cons d u =>
      obtain ⟨hd, hup⟩ := List.pairwise_cons.1 hu.1
      have below : ∀ {e f : (Nat × Nat) × BitVec w} {r : Table w},
          (∀ g ∈ r, pairLt f.1 g.1 = true) → pairLt e.1 f.1 = true → cellGet (f :: r) e.1 = 0 := by
        intro e f r hr hlt
        refine cellGet_of_all_ne fun g hg he => ?_
        rcases List.mem_cons.1 hg with rfl | hg
        · rw [he, pairLt_irrefl] at hlt; exact absurd hlt (by simp)
        · have := pairLt_trans _ _ _ hlt (hr g hg)
          rw [he, pairLt_irrefl] at this; exact absurd this (by simp)
      have hkey : c.1 = d.1 := by
        by_contra hne
        cases hlt : pairLt c.1 d.1 with
        | true =>
          have := h c.1
          rw [below hd hlt, cellGet_cons, if_pos rfl] at this
          exact ht.2 c (by simp) this
        | false =>
          have hgt := pairLt_tri _ _ hne hlt
          have := h d.1
          rw [below hc hgt, cellGet_cons, if_pos rfl] at this
          exact hu.2 d (by simp) this.symm
      have hval : c.2 = d.2 := by
        have := h c.1
        rwa [cellGet_cons, cellGet_cons, if_pos rfl, if_pos hkey.symm] at this
      have hcd : c = d := Prod.ext hkey hval
      subst hcd
      congr 1
      refine ih ⟨htp, fun e he => ht.2 e (by simp [he])⟩ ⟨hup, fun e he => hu.2 e (by simp [he])⟩ fun k => ?_
      by_cases hk : c.1 = k
      · subst hk
        have notin : ∀ {r : Table w}, (∀ g ∈ r, pairLt c.1 g.1 = true) → cellGet r c.1 = 0 := fun hr =>
          cellGet_of_all_ne fun g hg he => by
            have := hr g hg
            rw [he, pairLt_irrefl] at this; exact absurd this (by simp)
        rw [notin hc, notin hd]
      · have := h k
        rwa [cellGet_cons, cellGet_cons, if_neg hk, if_neg hk] at this

end Sys2Proof.Machine
end

