-- ==== Sys2Proof/Laws/State.lean ====
section
/-! SUPPORT. What each update of the state leaves in each field: one lemma per field and update. -/

namespace Sys2Proof.Machine

@[simp] theorem setV_params (s : State) (l i : Nat) (x : Word) : (s.setV l i x).params = s.params := rfl
@[simp] theorem setV_regs (s : State) (l i : Nat) (x : Word) : (s.setV l i x).regs = s.regs := rfl
@[simp] theorem setV_tmem (s : State) (l i : Nat) (x : Word) : (s.setV l i x).tmem = s.tmem := rfl
@[simp] theorem setV_stale (s : State) (l i : Nat) (x : Word) : (s.setV l i x).stale = s.stale := rfl
@[simp] theorem setV_draws (s : State) (l i : Nat) (x : Word) : (s.setV l i x).draws = s.draws := rfl
@[simp] theorem setV_rdata (s : State) (l i : Nat) (x : Word) : (s.setV l i x).rdata = s.rdata := rfl
@[simp] theorem setV_inputs (s : State) (l i : Nat) (x : Word) : (s.setV l i x).inputs = s.inputs := rfl
@[simp] theorem setV_arr_rf (s : State) (l i : Nat) (x : Word) : (s.setV l i x).arr.rf = s.arr.rf := rfl
@[simp] theorem setV_arr_th (s : State) (l i : Nat) (x : Word) : (s.setV l i x).arr.th = s.arr.th := rfl
@[simp] theorem setV_arr_dk (s : State) (l i : Nat) (x : Word) : (s.setV l i x).arr.dk = s.arr.dk := rfl
@[simp] theorem setV_arr_sum (s : State) (l i : Nat) (x : Word) : (s.setV l i x).arr.sum = s.arr.sum := rfl
@[simp] theorem setV_arr_counts (s : State) (l i : Nat) (x : Word) : (s.setV l i x).arr.counts = s.arr.counts := rfl
@[simp] theorem setV_arr_sb0 (s : State) (l i : Nat) (x : Word) : (s.setV l i x).arr.sb0 = s.arr.sb0 := rfl
@[simp] theorem setV_arr_sb1 (s : State) (l i : Nat) (x : Word) : (s.setV l i x).arr.sb1 = s.arr.sb1 := rfl
@[simp] theorem setV_rfAt (s : State) (l i : Nat) (x : Word) (l' i' : Nat) : (s.setV l i x).rfAt l' i' = s.rfAt l' i' := rfl
@[simp] theorem setV_thAt (s : State) (l i : Nat) (x : Word) (l' i' : Nat) : (s.setV l i x).thAt l' i' = s.thAt l' i' := rfl
@[simp] theorem setV_dkAt (s : State) (l i : Nat) (x : Word) (l' i' : Nat) : (s.setV l i x).dkAt l' i' = s.dkAt l' i' := rfl
@[simp] theorem setV_sumAt (s : State) (l i : Nat) (x : Word) (i' : Nat) : (s.setV l i x).sumAt i' = s.sumAt i' := rfl
@[simp] theorem setV_countAt (s : State) (l i : Nat) (x : Word) (i' c' : Nat) : (s.setV l i x).countAt i' c' = s.countAt i' c' := rfl
@[simp] theorem setV_sbAt (s : State) (l i : Nat) (x : Word) (k' : Buf) (t' b' : Nat) : (s.setV l i x).sbAt k' t' b' = s.sbAt k' t' b' := rfl

@[simp] theorem setRf_params (s : State) (l i : Nat) (x : Bit) : (s.setRf l i x).params = s.params := rfl
@[simp] theorem setRf_regs (s : State) (l i : Nat) (x : Bit) : (s.setRf l i x).regs = s.regs := rfl
@[simp] theorem setRf_tmem (s : State) (l i : Nat) (x : Bit) : (s.setRf l i x).tmem = s.tmem := rfl
@[simp] theorem setRf_stale (s : State) (l i : Nat) (x : Bit) : (s.setRf l i x).stale = s.stale := rfl
@[simp] theorem setRf_draws (s : State) (l i : Nat) (x : Bit) : (s.setRf l i x).draws = s.draws := rfl
@[simp] theorem setRf_rdata (s : State) (l i : Nat) (x : Bit) : (s.setRf l i x).rdata = s.rdata := rfl
@[simp] theorem setRf_inputs (s : State) (l i : Nat) (x : Bit) : (s.setRf l i x).inputs = s.inputs := rfl
@[simp] theorem setRf_arr_v (s : State) (l i : Nat) (x : Bit) : (s.setRf l i x).arr.v = s.arr.v := rfl
@[simp] theorem setRf_arr_th (s : State) (l i : Nat) (x : Bit) : (s.setRf l i x).arr.th = s.arr.th := rfl
@[simp] theorem setRf_arr_dk (s : State) (l i : Nat) (x : Bit) : (s.setRf l i x).arr.dk = s.arr.dk := rfl
@[simp] theorem setRf_arr_sum (s : State) (l i : Nat) (x : Bit) : (s.setRf l i x).arr.sum = s.arr.sum := rfl
@[simp] theorem setRf_arr_counts (s : State) (l i : Nat) (x : Bit) : (s.setRf l i x).arr.counts = s.arr.counts := rfl
@[simp] theorem setRf_arr_sb0 (s : State) (l i : Nat) (x : Bit) : (s.setRf l i x).arr.sb0 = s.arr.sb0 := rfl
@[simp] theorem setRf_arr_sb1 (s : State) (l i : Nat) (x : Bit) : (s.setRf l i x).arr.sb1 = s.arr.sb1 := rfl
@[simp] theorem setRf_vAt (s : State) (l i : Nat) (x : Bit) (l' i' : Nat) : (s.setRf l i x).vAt l' i' = s.vAt l' i' := rfl
@[simp] theorem setRf_thAt (s : State) (l i : Nat) (x : Bit) (l' i' : Nat) : (s.setRf l i x).thAt l' i' = s.thAt l' i' := rfl
@[simp] theorem setRf_dkAt (s : State) (l i : Nat) (x : Bit) (l' i' : Nat) : (s.setRf l i x).dkAt l' i' = s.dkAt l' i' := rfl
@[simp] theorem setRf_sumAt (s : State) (l i : Nat) (x : Bit) (i' : Nat) : (s.setRf l i x).sumAt i' = s.sumAt i' := rfl
@[simp] theorem setRf_countAt (s : State) (l i : Nat) (x : Bit) (i' c' : Nat) : (s.setRf l i x).countAt i' c' = s.countAt i' c' := rfl
@[simp] theorem setRf_sbAt (s : State) (l i : Nat) (x : Bit) (k' : Buf) (t' b' : Nat) : (s.setRf l i x).sbAt k' t' b' = s.sbAt k' t' b' := rfl

@[simp] theorem setTh_params (s : State) (l i : Nat) (x : Half) : (s.setTh l i x).params = s.params := rfl
@[simp] theorem setTh_regs (s : State) (l i : Nat) (x : Half) : (s.setTh l i x).regs = s.regs := rfl
@[simp] theorem setTh_tmem (s : State) (l i : Nat) (x : Half) : (s.setTh l i x).tmem = s.tmem := rfl
@[simp] theorem setTh_stale (s : State) (l i : Nat) (x : Half) : (s.setTh l i x).stale = s.stale := rfl
@[simp] theorem setTh_draws (s : State) (l i : Nat) (x : Half) : (s.setTh l i x).draws = s.draws := rfl
@[simp] theorem setTh_rdata (s : State) (l i : Nat) (x : Half) : (s.setTh l i x).rdata = s.rdata := rfl
@[simp] theorem setTh_inputs (s : State) (l i : Nat) (x : Half) : (s.setTh l i x).inputs = s.inputs := rfl
@[simp] theorem setTh_arr_v (s : State) (l i : Nat) (x : Half) : (s.setTh l i x).arr.v = s.arr.v := rfl
@[simp] theorem setTh_arr_rf (s : State) (l i : Nat) (x : Half) : (s.setTh l i x).arr.rf = s.arr.rf := rfl
@[simp] theorem setTh_arr_dk (s : State) (l i : Nat) (x : Half) : (s.setTh l i x).arr.dk = s.arr.dk := rfl
@[simp] theorem setTh_arr_sum (s : State) (l i : Nat) (x : Half) : (s.setTh l i x).arr.sum = s.arr.sum := rfl
@[simp] theorem setTh_arr_counts (s : State) (l i : Nat) (x : Half) : (s.setTh l i x).arr.counts = s.arr.counts := rfl
@[simp] theorem setTh_arr_sb0 (s : State) (l i : Nat) (x : Half) : (s.setTh l i x).arr.sb0 = s.arr.sb0 := rfl
@[simp] theorem setTh_arr_sb1 (s : State) (l i : Nat) (x : Half) : (s.setTh l i x).arr.sb1 = s.arr.sb1 := rfl
@[simp] theorem setTh_vAt (s : State) (l i : Nat) (x : Half) (l' i' : Nat) : (s.setTh l i x).vAt l' i' = s.vAt l' i' := rfl
@[simp] theorem setTh_rfAt (s : State) (l i : Nat) (x : Half) (l' i' : Nat) : (s.setTh l i x).rfAt l' i' = s.rfAt l' i' := rfl
@[simp] theorem setTh_dkAt (s : State) (l i : Nat) (x : Half) (l' i' : Nat) : (s.setTh l i x).dkAt l' i' = s.dkAt l' i' := rfl
@[simp] theorem setTh_sumAt (s : State) (l i : Nat) (x : Half) (i' : Nat) : (s.setTh l i x).sumAt i' = s.sumAt i' := rfl
@[simp] theorem setTh_countAt (s : State) (l i : Nat) (x : Half) (i' c' : Nat) : (s.setTh l i x).countAt i' c' = s.countAt i' c' := rfl
@[simp] theorem setTh_sbAt (s : State) (l i : Nat) (x : Half) (k' : Buf) (t' b' : Nat) : (s.setTh l i x).sbAt k' t' b' = s.sbAt k' t' b' := rfl

@[simp] theorem setDk_params (s : State) (l i : Nat) (x : Half) : (s.setDk l i x).params = s.params := rfl
@[simp] theorem setDk_regs (s : State) (l i : Nat) (x : Half) : (s.setDk l i x).regs = s.regs := rfl
@[simp] theorem setDk_tmem (s : State) (l i : Nat) (x : Half) : (s.setDk l i x).tmem = s.tmem := rfl
@[simp] theorem setDk_stale (s : State) (l i : Nat) (x : Half) : (s.setDk l i x).stale = s.stale := rfl
@[simp] theorem setDk_draws (s : State) (l i : Nat) (x : Half) : (s.setDk l i x).draws = s.draws := rfl
@[simp] theorem setDk_rdata (s : State) (l i : Nat) (x : Half) : (s.setDk l i x).rdata = s.rdata := rfl
@[simp] theorem setDk_inputs (s : State) (l i : Nat) (x : Half) : (s.setDk l i x).inputs = s.inputs := rfl
@[simp] theorem setDk_arr_v (s : State) (l i : Nat) (x : Half) : (s.setDk l i x).arr.v = s.arr.v := rfl
@[simp] theorem setDk_arr_rf (s : State) (l i : Nat) (x : Half) : (s.setDk l i x).arr.rf = s.arr.rf := rfl
@[simp] theorem setDk_arr_th (s : State) (l i : Nat) (x : Half) : (s.setDk l i x).arr.th = s.arr.th := rfl
@[simp] theorem setDk_arr_sum (s : State) (l i : Nat) (x : Half) : (s.setDk l i x).arr.sum = s.arr.sum := rfl
@[simp] theorem setDk_arr_counts (s : State) (l i : Nat) (x : Half) : (s.setDk l i x).arr.counts = s.arr.counts := rfl
@[simp] theorem setDk_arr_sb0 (s : State) (l i : Nat) (x : Half) : (s.setDk l i x).arr.sb0 = s.arr.sb0 := rfl
@[simp] theorem setDk_arr_sb1 (s : State) (l i : Nat) (x : Half) : (s.setDk l i x).arr.sb1 = s.arr.sb1 := rfl
@[simp] theorem setDk_vAt (s : State) (l i : Nat) (x : Half) (l' i' : Nat) : (s.setDk l i x).vAt l' i' = s.vAt l' i' := rfl
@[simp] theorem setDk_rfAt (s : State) (l i : Nat) (x : Half) (l' i' : Nat) : (s.setDk l i x).rfAt l' i' = s.rfAt l' i' := rfl
@[simp] theorem setDk_thAt (s : State) (l i : Nat) (x : Half) (l' i' : Nat) : (s.setDk l i x).thAt l' i' = s.thAt l' i' := rfl
@[simp] theorem setDk_sumAt (s : State) (l i : Nat) (x : Half) (i' : Nat) : (s.setDk l i x).sumAt i' = s.sumAt i' := rfl
@[simp] theorem setDk_countAt (s : State) (l i : Nat) (x : Half) (i' c' : Nat) : (s.setDk l i x).countAt i' c' = s.countAt i' c' := rfl
@[simp] theorem setDk_sbAt (s : State) (l i : Nat) (x : Half) (k' : Buf) (t' b' : Nat) : (s.setDk l i x).sbAt k' t' b' = s.sbAt k' t' b' := rfl

@[simp] theorem setSum_params (s : State) (i : Nat) (x : Word) : (s.setSum i x).params = s.params := rfl
@[simp] theorem setSum_regs (s : State) (i : Nat) (x : Word) : (s.setSum i x).regs = s.regs := rfl
@[simp] theorem setSum_tmem (s : State) (i : Nat) (x : Word) : (s.setSum i x).tmem = s.tmem := rfl
@[simp] theorem setSum_stale (s : State) (i : Nat) (x : Word) : (s.setSum i x).stale = s.stale := rfl
@[simp] theorem setSum_draws (s : State) (i : Nat) (x : Word) : (s.setSum i x).draws = s.draws := rfl
@[simp] theorem setSum_rdata (s : State) (i : Nat) (x : Word) : (s.setSum i x).rdata = s.rdata := rfl
@[simp] theorem setSum_inputs (s : State) (i : Nat) (x : Word) : (s.setSum i x).inputs = s.inputs := rfl
@[simp] theorem setSum_arr_v (s : State) (i : Nat) (x : Word) : (s.setSum i x).arr.v = s.arr.v := rfl
@[simp] theorem setSum_arr_rf (s : State) (i : Nat) (x : Word) : (s.setSum i x).arr.rf = s.arr.rf := rfl
@[simp] theorem setSum_arr_th (s : State) (i : Nat) (x : Word) : (s.setSum i x).arr.th = s.arr.th := rfl
@[simp] theorem setSum_arr_dk (s : State) (i : Nat) (x : Word) : (s.setSum i x).arr.dk = s.arr.dk := rfl
@[simp] theorem setSum_arr_counts (s : State) (i : Nat) (x : Word) : (s.setSum i x).arr.counts = s.arr.counts := rfl
@[simp] theorem setSum_arr_sb0 (s : State) (i : Nat) (x : Word) : (s.setSum i x).arr.sb0 = s.arr.sb0 := rfl
@[simp] theorem setSum_arr_sb1 (s : State) (i : Nat) (x : Word) : (s.setSum i x).arr.sb1 = s.arr.sb1 := rfl
@[simp] theorem setSum_vAt (s : State) (i : Nat) (x : Word) (l' i' : Nat) : (s.setSum i x).vAt l' i' = s.vAt l' i' := rfl
@[simp] theorem setSum_rfAt (s : State) (i : Nat) (x : Word) (l' i' : Nat) : (s.setSum i x).rfAt l' i' = s.rfAt l' i' := rfl
@[simp] theorem setSum_thAt (s : State) (i : Nat) (x : Word) (l' i' : Nat) : (s.setSum i x).thAt l' i' = s.thAt l' i' := rfl
@[simp] theorem setSum_dkAt (s : State) (i : Nat) (x : Word) (l' i' : Nat) : (s.setSum i x).dkAt l' i' = s.dkAt l' i' := rfl
@[simp] theorem setSum_countAt (s : State) (i : Nat) (x : Word) (i' c' : Nat) : (s.setSum i x).countAt i' c' = s.countAt i' c' := rfl
@[simp] theorem setSum_sbAt (s : State) (i : Nat) (x : Word) (k' : Buf) (t' b' : Nat) : (s.setSum i x).sbAt k' t' b' = s.sbAt k' t' b' := rfl

@[simp] theorem setCount_params (s : State) (i c : Nat) (x : Word) : (s.setCount i c x).params = s.params := rfl
@[simp] theorem setCount_regs (s : State) (i c : Nat) (x : Word) : (s.setCount i c x).regs = s.regs := rfl
@[simp] theorem setCount_tmem (s : State) (i c : Nat) (x : Word) : (s.setCount i c x).tmem = s.tmem := rfl
@[simp] theorem setCount_stale (s : State) (i c : Nat) (x : Word) : (s.setCount i c x).stale = s.stale := rfl
@[simp] theorem setCount_draws (s : State) (i c : Nat) (x : Word) : (s.setCount i c x).draws = s.draws := rfl
@[simp] theorem setCount_rdata (s : State) (i c : Nat) (x : Word) : (s.setCount i c x).rdata = s.rdata := rfl
@[simp] theorem setCount_inputs (s : State) (i c : Nat) (x : Word) : (s.setCount i c x).inputs = s.inputs := rfl
@[simp] theorem setCount_arr_v (s : State) (i c : Nat) (x : Word) : (s.setCount i c x).arr.v = s.arr.v := rfl
@[simp] theorem setCount_arr_rf (s : State) (i c : Nat) (x : Word) : (s.setCount i c x).arr.rf = s.arr.rf := rfl
@[simp] theorem setCount_arr_th (s : State) (i c : Nat) (x : Word) : (s.setCount i c x).arr.th = s.arr.th := rfl
@[simp] theorem setCount_arr_dk (s : State) (i c : Nat) (x : Word) : (s.setCount i c x).arr.dk = s.arr.dk := rfl
@[simp] theorem setCount_arr_sum (s : State) (i c : Nat) (x : Word) : (s.setCount i c x).arr.sum = s.arr.sum := rfl
@[simp] theorem setCount_arr_sb0 (s : State) (i c : Nat) (x : Word) : (s.setCount i c x).arr.sb0 = s.arr.sb0 := rfl
@[simp] theorem setCount_arr_sb1 (s : State) (i c : Nat) (x : Word) : (s.setCount i c x).arr.sb1 = s.arr.sb1 := rfl
@[simp] theorem setCount_vAt (s : State) (i c : Nat) (x : Word) (l' i' : Nat) : (s.setCount i c x).vAt l' i' = s.vAt l' i' := rfl
@[simp] theorem setCount_rfAt (s : State) (i c : Nat) (x : Word) (l' i' : Nat) : (s.setCount i c x).rfAt l' i' = s.rfAt l' i' := rfl
@[simp] theorem setCount_thAt (s : State) (i c : Nat) (x : Word) (l' i' : Nat) : (s.setCount i c x).thAt l' i' = s.thAt l' i' := rfl
@[simp] theorem setCount_dkAt (s : State) (i c : Nat) (x : Word) (l' i' : Nat) : (s.setCount i c x).dkAt l' i' = s.dkAt l' i' := rfl
@[simp] theorem setCount_sumAt (s : State) (i c : Nat) (x : Word) (i' : Nat) : (s.setCount i c x).sumAt i' = s.sumAt i' := rfl
@[simp] theorem setCount_sbAt (s : State) (i c : Nat) (x : Word) (k' : Buf) (t' b' : Nat) : (s.setCount i c x).sbAt k' t' b' = s.sbAt k' t' b' := rfl

@[simp] theorem setSb_params (s : State) (k : Buf) (t b : Nat) (x : Byte) : (s.setSb k t b x).params = s.params := by cases k <;> rfl
@[simp] theorem setSb_regs (s : State) (k : Buf) (t b : Nat) (x : Byte) : (s.setSb k t b x).regs = s.regs := by cases k <;> rfl
@[simp] theorem setSb_tmem (s : State) (k : Buf) (t b : Nat) (x : Byte) : (s.setSb k t b x).tmem = s.tmem := by cases k <;> rfl
@[simp] theorem setSb_stale (s : State) (k : Buf) (t b : Nat) (x : Byte) : (s.setSb k t b x).stale = s.stale := by cases k <;> rfl
@[simp] theorem setSb_draws (s : State) (k : Buf) (t b : Nat) (x : Byte) : (s.setSb k t b x).draws = s.draws := by cases k <;> rfl
@[simp] theorem setSb_rdata (s : State) (k : Buf) (t b : Nat) (x : Byte) : (s.setSb k t b x).rdata = s.rdata := by cases k <;> rfl
@[simp] theorem setSb_inputs (s : State) (k : Buf) (t b : Nat) (x : Byte) : (s.setSb k t b x).inputs = s.inputs := by cases k <;> rfl
@[simp] theorem setSb_arr_v (s : State) (k : Buf) (t b : Nat) (x : Byte) : (s.setSb k t b x).arr.v = s.arr.v := by cases k <;> rfl
@[simp] theorem setSb_arr_rf (s : State) (k : Buf) (t b : Nat) (x : Byte) : (s.setSb k t b x).arr.rf = s.arr.rf := by cases k <;> rfl
@[simp] theorem setSb_arr_th (s : State) (k : Buf) (t b : Nat) (x : Byte) : (s.setSb k t b x).arr.th = s.arr.th := by cases k <;> rfl
@[simp] theorem setSb_arr_dk (s : State) (k : Buf) (t b : Nat) (x : Byte) : (s.setSb k t b x).arr.dk = s.arr.dk := by cases k <;> rfl
@[simp] theorem setSb_arr_sum (s : State) (k : Buf) (t b : Nat) (x : Byte) : (s.setSb k t b x).arr.sum = s.arr.sum := by cases k <;> rfl
@[simp] theorem setSb_arr_counts (s : State) (k : Buf) (t b : Nat) (x : Byte) : (s.setSb k t b x).arr.counts = s.arr.counts := by cases k <;> rfl
@[simp] theorem setSb_vAt (s : State) (k : Buf) (t b : Nat) (x : Byte) (l' i' : Nat) : (s.setSb k t b x).vAt l' i' = s.vAt l' i' := by cases k <;> rfl
@[simp] theorem setSb_rfAt (s : State) (k : Buf) (t b : Nat) (x : Byte) (l' i' : Nat) : (s.setSb k t b x).rfAt l' i' = s.rfAt l' i' := by cases k <;> rfl
@[simp] theorem setSb_thAt (s : State) (k : Buf) (t b : Nat) (x : Byte) (l' i' : Nat) : (s.setSb k t b x).thAt l' i' = s.thAt l' i' := by cases k <;> rfl
@[simp] theorem setSb_dkAt (s : State) (k : Buf) (t b : Nat) (x : Byte) (l' i' : Nat) : (s.setSb k t b x).dkAt l' i' = s.dkAt l' i' := by cases k <;> rfl
@[simp] theorem setSb_sumAt (s : State) (k : Buf) (t b : Nat) (x : Byte) (i' : Nat) : (s.setSb k t b x).sumAt i' = s.sumAt i' := by cases k <;> rfl
@[simp] theorem setSb_countAt (s : State) (k : Buf) (t b : Nat) (x : Byte) (i' c' : Nat) : (s.setSb k t b x).countAt i' c' = s.countAt i' c' := by cases k <;> rfl

@[simp] theorem orOvf_params (s : State) (o : Bool) : (s.orOvf o).params = s.params := rfl
@[simp] theorem orOvf_tmem (s : State) (o : Bool) : (s.orOvf o).tmem = s.tmem := rfl
@[simp] theorem orOvf_stale (s : State) (o : Bool) : (s.orOvf o).stale = s.stale := rfl
@[simp] theorem orOvf_draws (s : State) (o : Bool) : (s.orOvf o).draws = s.draws := rfl
@[simp] theorem orOvf_rdata (s : State) (o : Bool) : (s.orOvf o).rdata = s.rdata := rfl
@[simp] theorem orOvf_inputs (s : State) (o : Bool) : (s.orOvf o).inputs = s.inputs := rfl
@[simp] theorem orOvf_arr (s : State) (o : Bool) : (s.orOvf o).arr = s.arr := rfl
@[simp] theorem orOvf_ovf (s : State) (o : Bool) :
    (s.orOvf o).regs.status.ovf = (s.regs.status.ovf || o) := rfl
@[simp] theorem orOvf_errcode (s : State) (o : Bool) : (s.orOvf o).regs.errcode = s.regs.errcode := rfl
@[simp] theorem orOvf_errinfo (s : State) (o : Bool) : (s.orOvf o).regs.errinfo = s.regs.errinfo := rfl
@[simp] theorem orOvf_cmd (s : State) (o : Bool) : (s.orOvf o).regs.cmd = s.regs.cmd := rfl
@[simp] theorem orOvf_ifMode (s : State) (o : Bool) : (s.orOvf o).regs.ifMode = s.regs.ifMode := rfl
@[simp] theorem orOvf_nlayers (s : State) (o : Bool) : (s.orOvf o).regs.nlayers = s.regs.nlayers := rfl
@[simp] theorem orOvf_srcBase (s : State) (o : Bool) : (s.orOvf o).regs.srcBase = s.regs.srcBase := rfl
@[simp] theorem orOvf_codecIn (s : State) (o : Bool) : (s.orOvf o).regs.codecIn = s.regs.codecIn := rfl
@[simp] theorem orOvf_codecOut (s : State) (o : Bool) : (s.orOvf o).regs.codecOut = s.regs.codecOut := rfl
@[simp] theorem orOvf_bitres (s : State) (o : Bool) : (s.orOvf o).regs.bitres = s.regs.bitres := rfl
@[simp] theorem orOvf_result (s : State) (o : Bool) : (s.orOvf o).regs.result = s.regs.result := rfl
@[simp] theorem orOvf_aselArr (s : State) (o : Bool) : (s.orOvf o).regs.aselArr = s.regs.aselArr := rfl
@[simp] theorem orOvf_aselLayer (s : State) (o : Bool) : (s.orOvf o).regs.aselLayer = s.regs.aselLayer := rfl
@[simp] theorem orOvf_aidx (s : State) (o : Bool) : (s.orOvf o).regs.aidx = s.regs.aidx := rfl
@[simp] theorem orOvf_layers (s : State) (o : Bool) : (s.orOvf o).regs.layers = s.regs.layers := rfl
@[simp] theorem orOvf_busy (s : State) (o : Bool) :
    (s.orOvf o).regs.status.busy = s.regs.status.busy := rfl
@[simp] theorem orOvf_configured (s : State) (o : Bool) :
    (s.orOvf o).regs.status.configured = s.regs.status.configured := rfl
@[simp] theorem orOvf_fatal (s : State) (o : Bool) :
    (s.orOvf o).regs.status.fatal = s.regs.status.fatal := rfl
@[simp] theorem orOvf_sel (s : State) (o : Bool) :
    (s.orOvf o).regs.status.sel = s.regs.status.sel := rfl
@[simp] theorem orOvf_vAt (s : State) (o : Bool) (l' i' : Nat) : (s.orOvf o).vAt l' i' = s.vAt l' i' := by
  rfl
@[simp] theorem orOvf_rfAt (s : State) (o : Bool) (l' i' : Nat) : (s.orOvf o).rfAt l' i' = s.rfAt l' i' := by
  rfl
@[simp] theorem orOvf_thAt (s : State) (o : Bool) (l' i' : Nat) : (s.orOvf o).thAt l' i' = s.thAt l' i' := by
  rfl
@[simp] theorem orOvf_dkAt (s : State) (o : Bool) (l' i' : Nat) : (s.orOvf o).dkAt l' i' = s.dkAt l' i' := by
  rfl
@[simp] theorem orOvf_sumAt (s : State) (o : Bool) (i' : Nat) : (s.orOvf o).sumAt i' = s.sumAt i' := by
  rfl
@[simp] theorem orOvf_countAt (s : State) (o : Bool) (i' c' : Nat) : (s.orOvf o).countAt i' c' = s.countAt i' c' := by
  rfl
@[simp] theorem orOvf_sbAt (s : State) (o : Bool) (k' : Buf) (t' b' : Nat) : (s.orOvf o).sbAt k' t' b' = s.sbAt k' t' b' := by
  cases k' <;> rfl

/-! Read after write. -/

theorem setV_vAt (s : State) (l i : Nat) (x : Word) (l' i' : Nat) :
    (s.setV l i x).vAt l' i' = if l' = l ∧ i' = i then x else s.vAt l' i' := by
  simp [State.setV, State.vAt, cellGet_cellSet]

theorem setRf_rfAt (s : State) (l i : Nat) (x : Bit) (l' i' : Nat) :
    (s.setRf l i x).rfAt l' i' = if l' = l ∧ i' = i then x else s.rfAt l' i' := by
  simp [State.setRf, State.rfAt, cellGet_cellSet]

theorem setTh_thAt (s : State) (l i : Nat) (x : Half) (l' i' : Nat) :
    (s.setTh l i x).thAt l' i' = if l' = l ∧ i' = i then x else s.thAt l' i' := by
  simp [State.setTh, State.thAt, cellGet_cellSet]

theorem setDk_dkAt (s : State) (l i : Nat) (x : Half) (l' i' : Nat) :
    (s.setDk l i x).dkAt l' i' = if l' = l ∧ i' = i then x else s.dkAt l' i' := by
  simp [State.setDk, State.dkAt, cellGet_cellSet]

theorem setSum_sumAt (s : State) (i : Nat) (x : Word) (i' : Nat) :
    (s.setSum i x).sumAt i' = if i' = i then x else s.sumAt i' := by
  simp [State.setSum, State.sumAt, cellGet_cellSet]

theorem setCount_countAt (s : State) (i c : Nat) (x : Word) (i' c' : Nat) :
    (s.setCount i c x).countAt i' c' = if i' = i ∧ c' = c then x else s.countAt i' c' := by
  simp [State.setCount, State.countAt, cellGet_cellSet]

theorem setSb_sbAt (s : State) (k : Buf) (t b : Nat) (x : Byte) (k' : Buf) (t' b' : Nat) :
    (s.setSb k t b x).sbAt k' t' b' = if k' = k ∧ t' = t ∧ b' = b then x else s.sbAt k' t' b' := by
  cases k <;> cases k' <;> simp [State.setSb, State.sbAt, cellGet_cellSet]

end Sys2Proof.Machine
end

