-- ==== Sys2Proof/Laws/Ops.lean ====
section
/-! SUPPORT. For each shared operation, everything it can do, said once. -/

namespace Sys2Proof.Machine

/-! ### Folds -/

/-- A property of state pairs that is reflexive, transitive and true of every iteration is true of the loop. -/
theorem foldl_rel {σ α : Type} {R : σ → σ → Prop} (refl : ∀ s, R s s)
    (trans : ∀ a b c, R a b → R b c → R a c) {f : σ → α → σ} (step : ∀ s x, R s (f s x)) (l : List α) (s : σ) :
    R s (l.foldl f s) := by
  induction l generalizing s with
  | nil => exact refl s
  | cons x l ih => exact trans _ _ _ (step s x) (ih (f s x))

/-- A property every iteration keeps is kept by the loop. -/
theorem foldl_inv {σ α : Type} {P : σ → Prop} {f : σ → α → σ} (l : List α)
    (step : ∀ s, ∀ x ∈ l, P s → P (f s x)) (s : σ) (h : P s) : P (l.foldl f s) := by
  induction l generalizing s with
  | nil => exact h
  | cons x l ih =>
    exact ih (fun s y hy => step s y (List.mem_cons_of_mem _ hy)) _ (step s x List.mem_cons_self h)

/-! ### Wrapping arithmetic -/

theorem wrap32_add_left (a b : Int) : wrap32 ((wrap32 a).toInt + b) = wrap32 (a + b) := by
  unfold wrap32
  rw [BitVec.ofInt_add, BitVec.ofInt_toInt, ← BitVec.ofInt_add]

theorem wrap32_toInt_self (x : Word) : wrap32 x.toInt = x := by simp [wrap32]

/-- An exact result that does not overflow is the integer the wrapped result stands for. -/
theorem toInt_wrap32 {r : Int} (h : overflows r = false) : (wrap32 r).toInt = r := by
  simp only [overflows, decide_eq_false_iff_not, not_or, not_lt] at h
  rw [wrap32, BitVec.toInt_ofInt]
  apply Int.bmod_eq_of_le <;> omega

theorem overflows_eq_false {r : Int} : overflows r = false ↔ -2147483648 ≤ r ∧ r ≤ 2147483647 := by
  simp [overflows]

theorem toInt_word_bounds (x : Word) : -2147483648 ≤ x.toInt ∧ x.toInt ≤ 2147483647 := by
  have h1 := BitVec.le_toInt x
  have h2 := BitVec.toInt_lt (x := x)
  norm_num at h1 h2
  omega

theorem toInt_half_bounds (x : Half) : -32768 ≤ x.toInt ∧ x.toInt ≤ 32767 := by
  have h1 := BitVec.le_toInt x
  have h2 := BitVec.toInt_lt (x := x)
  norm_num at h1 h2
  omega

theorem toInt_byte_bounds (x : Byte) : -128 ≤ x.toInt ∧ x.toInt ≤ 127 := by
  have h1 := BitVec.le_toInt x
  have h2 := BitVec.toInt_lt (x := x)
  norm_num at h1 h2
  omega

theorem signExtend_byte (b : Byte) : b.signExtend 32 = wrap32 b.toInt := rfl

/-! ### TMEM -/

/-- While no byte has been replaced, a read returns the byte that stands there and changes nothing. -/
theorem memRead_stable {s : State} (h : s.stale = []) (a : Nat) : s.memRead a = (s.tmemAt a, s) := by
  simp [State.memRead, State.staleAt, h]

/-- A read changes at most the count of free choices. -/
theorem memRead_frame (s : State) (a : Nat) : ∃ d, (s.memRead a).2 = { s with draws := d } := by
  unfold State.memRead
  split
  · exact ⟨s.draws, rfl⟩
  · exact ⟨_, rfl⟩

/-! ### Spike-buffer bits -/

theorem putBit_getLsbD (b : Byte) (x : Bool) {j j' : Nat} (hj' : j' < 8) :
    (putBit b j x).getLsbD j' = if j' = j then x else b.getLsbD j' := by
  by_cases h : j' = j
  · subst h; cases x <;> simp [putBit, hj']
  · by_cases hlt : j' < j
    · cases x <;> simp [putBit, hj', h, hlt]
    · have hne : j' - j ≠ 0 := by omega
      cases x <;> simp [putBit, hj', h, hlt, hne]

/-- What one `sb_set` does to every bit of both buffers (R111). -/
theorem sbSet_sbGet (s : State) (k : Buf) (n t : Nat) (x : Bool) (k' : Buf) (n' t' : Nat) :
    (s.sbSet k n t x).sbGet k' n' t' = if k' = k ∧ n' = n ∧ t' = t then x else s.sbGet k' n' t' := by
  unfold State.sbGet State.sbSet
  rw [setSb_sbAt]
  by_cases h : k' = k ∧ t' = t ∧ n' / 8 = n / 8
  · rw [if_pos h, putBit_getLsbD _ _ (Nat.mod_lt _ (by norm_num))]
    obtain ⟨rfl, rfl, hb⟩ := h
    by_cases hn : n' % 8 = n % 8
    · have : n' = n := by omega
      simp [this]
    · have : n' ≠ n := fun e => hn (by rw [e])
      simp [hn, this, hb]
  · rw [if_neg h, if_neg]
    rintro ⟨rfl, rfl, rfl⟩
    exact h ⟨rfl, rfl, rfl⟩

/-- Which part of the state `sb_set` touches: the two buffers. -/
theorem sbSet_frame (s : State) (k : Buf) (n t : Nat) (x : Bool) :
    ∃ b0 b1, s.sbSet k n t x = { s with arr.sb0 := b0, arr.sb1 := b1 } := by
  cases k
  · exact ⟨_, s.arr.sb1, rfl⟩
  · exact ⟨s.arr.sb0, _, rfl⟩

/-! ### Lanes -/

/-- The lanes change V and OVF, nothing else. -/
theorem mapLanes_frame (l n : Nat) (f : Nat → Option (Word × Bool)) (s : State) :
    ∃ v o, mapLanes l n f s = { s with arr.v := v, regs.status.ovf := o } := by
  unfold mapLanes
  refine foldl_rel (R := fun s t : State => ∃ v o, t = { s with arr.v := v, regs.status.ovf := o })
    (fun s => ⟨s.arr.v, s.regs.status.ovf, rfl⟩) ?_ ?_ _ s
  · rintro a _ _ ⟨v, o, rfl⟩ ⟨v', o', rfl⟩
    exact ⟨v', o', rfl⟩
  · intro s i
    cases f i with
    | none => exact ⟨s.arr.v, s.regs.status.ovf, rfl⟩
    | some r => exact ⟨_, _, rfl⟩

/-- The lanes' results: V of the lanes that have one, and the OR of the lanes' wraps (R120). -/
theorem mapLanes_spec (l n : Nat) (f : Nat → Option (Word × Bool)) (s : State) :
    (∀ l' i, (mapLanes l n f s).vAt l' i =
      if l' = l ∧ i < n then (match f i with | some r => r.1 | none => s.vAt l' i) else s.vAt l' i) ∧
    (mapLanes l n f s).regs.status.ovf =
      (s.regs.status.ovf ||
        (List.range n).any (fun i => match f i with | some r => r.2 | none => false)) := by
  induction n with
  | zero => simp [mapLanes]
  | succ n ih =>
    have e : mapLanes l (n + 1) f s =
        (match f n with
          | some r => ((mapLanes l n f s).setV l n r.1).orOvf r.2
          | none => mapLanes l n f s) := by
      unfold mapLanes
      rw [List.range_succ, List.foldl_append]
      rfl
    rw [e, List.range_succ, List.any_append]
    obtain ⟨ihv, iho⟩ := ih
    cases hf : f n with
    | none =>
      refine ⟨fun l' i => ?_, by simp [iho, hf]⟩
      rw [ihv]
      by_cases hi : i = n
      · subst hi; simp [hf]
      · have : i < n + 1 ↔ i < n := by omega
        simp [this]
    | some r =>
      refine ⟨fun l' i => ?_, by simp [iho, hf, Bool.or_assoc]⟩
      rw [orOvf_vAt, setV_vAt, ihv]
      by_cases hi : i = n
      · subst hi; by_cases hl : l' = l <;> simp [hf, hl]
      · have : i < n + 1 ↔ i < n := by omega
        simp [this, hi]

/-! ### Accumulators -/

theorem addSum_frame (i : Nat) (x : Int) (s : State) :
    ∃ m o, addSum i x s = { s with arr.sum := m, regs.status.ovf := o } := ⟨_, _, rfl⟩

theorem addSum_sumAt (i : Nat) (x : Int) (s : State) (i' : Nat) :
    (addSum i x s).sumAt i' = if i' = i then wrap32 ((s.sumAt i).toInt + x) else s.sumAt i' := by
  simp [addSum, add32, setSum_sumAt]

theorem addSum_ovf (i : Nat) (x : Int) (s : State) :
    (addSum i x s).regs.status.ovf = (s.regs.status.ovf || overflows ((s.sumAt i).toInt + x)) := rfl

/-- Loading accumulators changes SUM and, where a byte was replaced, the count of free choices. -/
theorem loadSums_frame (targets : List (Nat × Nat)) (s : State) :
    ∃ m d, loadSums targets s = { s with arr.sum := m, draws := d } := by
  unfold loadSums
  refine foldl_rel (R := fun s t : State => ∃ m d, t = { s with arr.sum := m, draws := d })
    (fun s => ⟨s.arr.sum, s.draws, rfl⟩) ?_ ?_ _ s
  · rintro a _ _ ⟨m, d, rfl⟩ ⟨m', d', rfl⟩
    exact ⟨m', d', rfl⟩
  · intro s p
    obtain ⟨d, hd⟩ := memRead_frame s p.2
    rw [hd]
    exact ⟨_, d, rfl⟩

theorem loadSums_nil (s : State) : loadSums [] s = s := rfl

theorem loadSums_cons {s : State} (h : s.stale = []) (p : Nat × Nat) (ts : List (Nat × Nat)) :
    loadSums (p :: ts) s = loadSums ts (s.setSum p.1 ((s.tmemAt p.2).signExtend 32)) := by
  simp [loadSums, memRead_stable h]

theorem loadSums_append (ts us : List (Nat × Nat)) (s : State) :
    loadSums (ts ++ us) s = loadSums us (loadSums ts s) := List.foldl_append ..

/-- With TMEM stable, loading accumulators changes SUM only. -/
theorem loadSums_stable {s : State} (h : s.stale = []) (targets : List (Nat × Nat)) :
    ∃ m, loadSums targets s = { s with arr.sum := m } := by
  induction targets generalizing s with
  | nil => exact ⟨s.arr.sum, rfl⟩
  | cons p ts ih =>
    rw [loadSums_cons h]
    obtain ⟨m, hm⟩ := ih (s := s.setSum p.1 ((s.tmemAt p.2).signExtend 32)) h
    exact ⟨m, by rw [hm]; rfl⟩

/-- With TMEM stable, loading `SUM[0 .. n - 1]` leaves each the sign-extended byte at its address. -/
theorem loadSums_range {s : State} (h : s.stale = []) (addr : Nat → Nat) (n i : Nat) :
    (loadSums ((List.range n).map (fun i => (i, addr i))) s).sumAt i =
      if i < n then (s.tmemAt (addr i)).signExtend 32 else s.sumAt i := by
  induction n with
  | zero => simp [loadSums]
  | succ n ih =>
    have e : loadSums ((List.range (n + 1)).map (fun i => (i, addr i))) s =
        (loadSums ((List.range n).map (fun i => (i, addr i))) s).setSum n
          ((s.tmemAt (addr n)).signExtend 32) := by
      obtain ⟨m, hm⟩ := loadSums_stable h ((List.range n).map (fun i => (i, addr i)))
      have hs : (loadSums ((List.range n).map (fun i => (i, addr i))) s).stale = [] := by rw [hm]; exact h
      have ht : (loadSums ((List.range n).map (fun i => (i, addr i))) s).tmemAt (addr n) = s.tmemAt (addr n) := by
        rw [hm]; rfl
      rw [List.range_succ, List.map_append, loadSums_append]
      simp [loadSums_cons hs, loadSums_nil, ht]
    rw [e, setSum_sumAt, ih]
    by_cases hi : i = n
    · subst hi; simp
    · have : i < n + 1 ↔ i < n := by omega
      simp [hi, this]

/-- Accumulating changes SUM, OVF and, where a byte was replaced, the count of free choices. -/
theorem accumulateSums_frame (targets : List (Nat × Nat)) (s : State) :
    ∃ m o d, accumulateSums targets s = { s with arr.sum := m, regs.status.ovf := o, draws := d } := by
  unfold accumulateSums
  refine foldl_rel
    (R := fun s t : State => ∃ m o d, t = { s with arr.sum := m, regs.status.ovf := o, draws := d })
    (fun s => ⟨s.arr.sum, s.regs.status.ovf, s.draws, rfl⟩) ?_ ?_ _ s
  · rintro a _ _ ⟨m, o, d, rfl⟩ ⟨m', o', d', rfl⟩
    exact ⟨m', o', d', rfl⟩
  · intro s p
    obtain ⟨d, hd⟩ := memRead_frame s p.2
    rw [hd]
    exact ⟨_, _, d, rfl⟩

/-- One target of an accumulation, with TMEM stable. -/
theorem accumulateSums_cons {s : State} (h : s.stale = []) (p : Nat × Nat) (ts : List (Nat × Nat)) :
    accumulateSums (p :: ts) s = accumulateSums ts (addSum p.1 (s.tmemAt p.2).toInt s) := by
  simp [accumulateSums, memRead_stable h]

/-- With TMEM stable, accumulating changes SUM and OVF only. -/
theorem accumulateSums_stable {s : State} (h : s.stale = []) (targets : List (Nat × Nat)) :
    ∃ m o, accumulateSums targets s = { s with arr.sum := m, regs.status.ovf := o } := by
  induction targets generalizing s with
  | nil => exact ⟨s.arr.sum, s.regs.status.ovf, rfl⟩
  | cons p ts ih =>
    rw [accumulateSums_cons h]
    obtain ⟨m, o, hm⟩ := ih (s := addSum p.1 (s.tmemAt p.2).toInt s) h
    exact ⟨m, o, by rw [hm]; rfl⟩

/-- The exact sum of the bytes that a list of targets adds to accumulator `i`. -/
def targetSum (s : State) (targets : List (Nat × Nat)) (i : Nat) : Int :=
  ((targets.filter (fun p => decide (p.1 = i))).map (fun p => (s.tmemAt p.2).toInt)).sum

theorem targetSum_cons (s : State) (p : Nat × Nat) (ts : List (Nat × Nat)) (i : Nat) :
    targetSum s (p :: ts) i = (if p.1 = i then (s.tmemAt p.2).toInt else 0) + targetSum s ts i := by
  by_cases h : p.1 = i <;> simp [targetSum, h]

theorem targetSum_append (s : State) (ts us : List (Nat × Nat)) (i : Nat) :
    targetSum s (ts ++ us) i = targetSum s ts i + targetSum s us i := by
  simp [targetSum]

/-- With TMEM stable, what accumulating leaves in every accumulator: the old value plus the exact sum of its
targets, modulo 2^32. -/
theorem accumulateSums_sumAt {s : State} (h : s.stale = []) (targets : List (Nat × Nat)) (i : Nat) :
    (accumulateSums targets s).sumAt i = wrap32 ((s.sumAt i).toInt + targetSum s targets i) := by
  induction targets generalizing s with
  | nil => simp [accumulateSums, targetSum, wrap32]
  | cons p ts ih =>
    rw [accumulateSums_cons h, ih (s := addSum p.1 (s.tmemAt p.2).toInt s) h, addSum_sumAt, targetSum_cons]
    have ht : targetSum (addSum p.1 (s.tmemAt p.2).toInt s) ts i = targetSum s ts i := rfl
    rw [ht]
    by_cases hi : i = p.1
    · subst hi
      rw [if_pos rfl, if_pos rfl, wrap32_add_left]
      congr 1; omega
    · rw [if_neg hi, if_neg (Ne.symm hi)]
      congr 1; omega

/-- With TMEM stable and distinct accumulators, OVF gathers the wrap of each single addition. -/
theorem accumulateSums_ovf_nodup {s : State} (h : s.stale = []) {targets : List (Nat × Nat)}
    (hd : (targets.map Prod.fst).Nodup) :
    (accumulateSums targets s).regs.status.ovf =
      (s.regs.status.ovf ||
        targets.any (fun p => overflows ((s.sumAt p.1).toInt + (s.tmemAt p.2).toInt))) := by
  induction targets generalizing s with
  | nil => simp [accumulateSums]
  | cons p ts ih =>
    rw [List.map_cons, List.nodup_cons] at hd
    rw [accumulateSums_cons h, ih (s := addSum p.1 (s.tmemAt p.2).toInt s) h hd.2, addSum_ovf, List.any_cons,
      Bool.or_assoc]
    congr 2
    apply Bool.eq_iff_iff.2
    simp only [List.any_eq_true]
    refine exists_congr fun q => and_congr_right fun hq => ?_
    have hne : q.1 ≠ p.1 := fun e => hd.1 (List.mem_map.2 ⟨q, hq, e⟩)
    rw [addSum_sumAt, if_neg hne]
    rfl

/-- With TMEM stable and room for every partial sum, accumulating is exact and sets no OVF. -/
theorem accumulateSums_exact {s : State} (h : s.stale = []) (targets : List (Nat × Nat))
    (room : ∀ i, |(s.sumAt i).toInt| + 128 * (targets.countP (fun p => decide (p.1 = i)) : Int) ≤ 2147483647) :
    (accumulateSums targets s).regs.status.ovf = s.regs.status.ovf ∧
    ∀ i, ((accumulateSums targets s).sumAt i).toInt = (s.sumAt i).toInt + targetSum s targets i := by
  induction targets generalizing s with
  | nil => simp [accumulateSums, targetSum]
  | cons p ts ih =>
    have hb := toInt_byte_bounds (s.tmemAt p.2)
    have hp := room p.1
    rw [List.countP_cons_of_pos (by simp)] at hp
    have habs := abs_le.1 (le_refl |(s.sumAt p.1).toInt|)
    have hno : overflows ((s.sumAt p.1).toInt + (s.tmemAt p.2).toInt) = false := by
      rw [overflows_eq_false]; push_cast at hp; omega
    have hsum : ∀ i, ((addSum p.1 (s.tmemAt p.2).toInt s).sumAt i).toInt =
        (s.sumAt i).toInt + if p.1 = i then (s.tmemAt p.2).toInt else 0 := by
      intro i
      rw [addSum_sumAt]
      by_cases hi : i = p.1
      · subst hi; rw [if_pos rfl, if_pos rfl, toInt_wrap32 hno]
      · rw [if_neg hi, if_neg (Ne.symm hi), add_zero]
    rw [accumulateSums_cons h]
    obtain ⟨io, is⟩ := ih (s := addSum p.1 (s.tmemAt p.2).toInt s) h (by
      intro i
      have hr := room i
      rw [hsum]
      by_cases hi : p.1 = i
      · rw [List.countP_cons_of_pos (by simp [hi])] at hr
        rw [if_pos hi]
        have := abs_add_le (s.sumAt i).toInt (s.tmemAt p.2).toInt
        have : |(s.tmemAt p.2).toInt| ≤ 128 := abs_le.2 ⟨by omega, by omega⟩
        push_cast at hr
        omega
      · rw [List.countP_cons_of_neg (by simp [hi])] at hr
        rw [if_neg hi, add_zero]
        exact hr)
    refine ⟨by rw [io, addSum_ovf, hno, Bool.or_false], fun i => ?_⟩
    rw [is, hsum, targetSum_cons]
    have : targetSum (addSum p.1 (s.tmemAt p.2).toInt s) ts i = targetSum s ts i := rfl
    rw [this, add_assoc]

/-! ### Errors, acceptance and completion -/

/-- `raise` writes the error record and nothing else (R181, R183). -/
theorem raise_frame (e : ErrRecord) (s : State) :
    ∃ st c x, raise e s = { s with regs.status := st, regs.errcode := c, regs.errinfo := x } := ⟨_, _, _, rfl⟩

@[simp] theorem raise_arr (e : ErrRecord) (s : State) : (raise e s).arr = s.arr := rfl
@[simp] theorem raise_params (e : ErrRecord) (s : State) : (raise e s).params = s.params := rfl
@[simp] theorem raise_tmem (e : ErrRecord) (s : State) : (raise e s).tmem = s.tmem := rfl
@[simp] theorem raise_stale (e : ErrRecord) (s : State) : (raise e s).stale = s.stale := rfl
@[simp] theorem raise_inputs (e : ErrRecord) (s : State) : (raise e s).inputs = s.inputs := rfl
@[simp] theorem raise_cmd (e : ErrRecord) (s : State) : (raise e s).regs.cmd = s.regs.cmd := rfl
@[simp] theorem raise_layers (e : ErrRecord) (s : State) : (raise e s).regs.layers = s.regs.layers := rfl

@[simp] theorem setErrFlag_busy (k : ErrKind) (st : Status) : (setErrFlag k st).busy = st.busy := by
  cases k <;> rfl
@[simp] theorem setErrFlag_configured (k : ErrKind) (st : Status) :
    (setErrFlag k st).configured = st.configured := by cases k <;> rfl
@[simp] theorem setErrFlag_fatal (k : ErrKind) (st : Status) : (setErrFlag k st).fatal = st.fatal := by
  cases k <;> rfl
@[simp] theorem setErrFlag_sel (k : ErrKind) (st : Status) : (setErrFlag k st).sel = st.sel := by
  cases k <;> rfl
@[simp] theorem setErrFlag_ovf (k : ErrKind) (st : Status) : (setErrFlag k st).ovf = st.ovf := by
  cases k <;> rfl

/-- Raising sets the code's own sticky flag and clears none. -/
theorem errFlag_setErrFlag (k k' : ErrKind) (st : Status) :
    errFlag k' (setErrFlag k st) = (errFlag k' st || decide (k' = k)) := by
  cases k <;> cases k' <;> simp [errFlag, setErrFlag]

@[simp] theorem raiseStatus_busy (k : ErrKind) (st : Status) : (raiseStatus k st).busy = st.busy := by
  cases k <;> rfl
@[simp] theorem raiseStatus_configured (k : ErrKind) (st : Status) :
    (raiseStatus k st).configured = st.configured := by cases k <;> rfl
@[simp] theorem raiseStatus_sel (k : ErrKind) (st : Status) : (raiseStatus k st).sel = st.sel := by
  cases k <;> rfl
@[simp] theorem raiseStatus_ovf (k : ErrKind) (st : Status) : (raiseStatus k st).ovf = st.ovf := by
  cases k <;> rfl

/-- FATAL is set by E_CFG and by nothing else (R182). -/
theorem raiseStatus_fatal (k : ErrKind) (st : Status) :
    (raiseStatus k st).fatal = (st.fatal || decide (k = .cfg)) := by
  cases k <;> simp [raiseStatus, setErrFlag]

theorem errFlag_raiseStatus (k k' : ErrKind) (st : Status) :
    errFlag k' (raiseStatus k st) = (errFlag k' st || decide (k' = k)) := by
  cases k <;> cases k' <;> simp [errFlag, raiseStatus, setErrFlag]

@[simp] theorem latch_stale (w : Word) (s : State) : (latch w s).stale = [] := rfl
@[simp] theorem latch_params (w : Word) (s : State) : (latch w s).params = s.params := rfl
@[simp] theorem latch_arr (w : Word) (s : State) : (latch w s).arr = s.arr := rfl
@[simp] theorem latch_tmem (w : Word) (s : State) : (latch w s).tmem = s.tmem := rfl
@[simp] theorem latch_layers (w : Word) (s : State) : (latch w s).regs.layers = s.regs.layers := rfl
@[simp] theorem latch_nlayers (w : Word) (s : State) : (latch w s).regs.nlayers = s.regs.nlayers := rfl
@[simp] theorem latch_sel (w : Word) (s : State) : (latch w s).regs.status.sel = s.regs.status.sel := rfl
@[simp] theorem latch_ovf (w : Word) (s : State) : (latch w s).regs.status.ovf = s.regs.status.ovf := rfl

@[simp] theorem finish_stale (s : State) : (finish s).stale = [] := rfl
@[simp] theorem finish_busy (s : State) : (finish s).regs.status.busy = false := rfl
@[simp] theorem finish_arr (s : State) : (finish s).arr = s.arr := rfl
@[simp] theorem finish_params (s : State) : (finish s).params = s.params := rfl

end Sys2Proof.Machine
end

