-- ==== Sys2Proof/Laws/Accept.lean ====
section
/-! SUPPORT. Issuing a command: its three outcomes, and when acceptance passes. -/

namespace Sys2Proof.Machine

/-- A command written while BUSY = 1 is refused and lost. -/
theorem issue_busy {i : Instr} {eff : State → State} {s : State} (h : s.regs.status.busy = true) :
    issue i eff s = .next (refuseBusyCommand s) := by simp [issue, h]

/-- A command that fails a check is refused with that check's error. -/
theorem issue_refused {i : Instr} {eff : State → State} {s : State} {e : ErrRecord}
    (h : s.regs.status.busy = false) (he : acceptError i s = some e) :
    issue i eff s = .next (raise e s) := by simp [issue, h, he]

/-- A command that passes every check is latched, has its effects and ends the BUSY phase. -/
theorem issue_accepted {i : Instr} {eff : State → State} {s : State}
    (h : s.regs.status.busy = false) (he : acceptError i s = none) :
    issue i eff s = .next (finish (eff (latch (encode i) s))) := by simp [issue, h, he]

/-- Everything issuing a command can do: it always answers a next state, in one of three ways. -/
theorem issue_cases (i : Instr) (eff : State → State) (s : State) :
    (s.regs.status.busy = true ∧ issue i eff s = .next (refuseBusyCommand s)) ∨
    (∃ e, s.regs.status.busy = false ∧ acceptError i s = some e ∧ issue i eff s = .next (raise e s)) ∨
    (s.regs.status.busy = false ∧ acceptError i s = none ∧
      issue i eff s = .next (finish (eff (latch (encode i) s)))) := by
  cases hb : s.regs.status.busy with
  | true => exact .inl ⟨rfl, issue_busy hb⟩
  | false =>
    cases he : acceptError i s with
    | some e => exact .inr (.inl ⟨e, rfl, rfl, issue_refused hb he⟩)
    | none => exact .inr (.inr ⟨rfl, rfl, issue_accepted hb he⟩)

/-- Every arm of `exec` issues its command with the effects `Complete` performs. -/
theorem exec_eq_issue (i : Instr) (s : State) : exec i s = issue i (effectOf i) s := by cases i <;> rfl

/-- What passing acceptance asks, check by check (R89). -/
theorem acceptError_eq_none (i : Instr) (s : State) :
    acceptError i s = none ↔
      (s.regs.status.fatal = false ∨ i = .srst) ∧
      (i = .init → s.regs.status.configured = false) ∧
      (needsConfigured i = true → s.regs.status.configured = true) ∧
      operandsInRange i s = true ∧ sourceInRange i s = true ∧ lastChecks i s = none := by
  unfold acceptError
  by_cases h1 : s.regs.status.fatal = true ∧ i ≠ .srst
  · rw [if_pos h1]
    simp only [reduceCtorEq, false_iff, not_and]
    rintro (h | h)
    · simp [h] at h1
    · exact absurd h h1.2
  rw [if_neg h1]
  have h1' : s.regs.status.fatal = false ∨ i = .srst := by
    by_cases hi : i = .srst
    · exact .inr hi
    · exact .inl (by simpa [hi] using h1)
  by_cases h2 : i = .init ∧ s.regs.status.configured = true
  · rw [if_pos h2]; simp [h2.1, h2.2]
  rw [if_neg h2]
  have h2' : i = .init → s.regs.status.configured = false := fun h => by simpa [h] using h2
  by_cases h3 : needsConfigured i = true ∧ s.regs.status.configured = false
  · rw [if_pos h3]; simp [h3.1, h3.2]
  rw [if_neg h3]
  have h3' : needsConfigured i = true → s.regs.status.configured = true := fun h => by simpa [h] using h3
  by_cases h4 : operandsInRange i s = false
  · rw [if_pos h4]; simp [h4]
  rw [if_neg h4]
  by_cases h5 : sourceInRange i s = false
  · rw [if_pos h5]; simp [h5]
  rw [if_neg h5]
  simp only [Bool.not_eq_false] at h4 h5
  exact ⟨fun h => ⟨h1', h2', h3', h4, h5, h⟩, fun h => h.2.2.2.2.2⟩

/-- Commands other than QUANT and INIT have no check after step 5. -/
theorem lastChecks_other {i : Instr} (hq : i ≠ .quant) (hi : i ≠ .init) (s : State) : lastChecks i s = none := by
  simp [lastChecks, hq, hi]

/-- Acceptance looks at the parameters, and of the registers at CONFIGURED, FATAL, the topology, SRC_BASE and
CODEC_IN only. -/
theorem acceptError_congr (i : Instr) {s t : State} (hp : t.params = s.params)
    (hf : t.regs.status.fatal = s.regs.status.fatal)
    (hc : t.regs.status.configured = s.regs.status.configured) (hn : t.regs.nlayers = s.regs.nlayers)
    (hl : t.regs.layers = s.regs.layers) (hs : t.regs.srcBase = s.regs.srcBase)
    (hq : t.regs.codecIn = s.regs.codecIn) : acceptError i t = acceptError i s := by
  have hd : t.desc = s.desc := by funext l; simp [State.desc, hl]
  have hN : t.nLayers = s.nLayers := by simp [State.nLayers, hn]
  have hr : operandsInRange i t = operandsInRange i s := by
    cases i <;> simp only [operandsInRange, hp, hN, State.nIn, State.neurons, hd]
    exact decide_eq_decide.2 Iff.rfl
  have hm : sourceInRange i t = sourceInRange i s := by
    cases i <;>
      simp only [sourceInRange, loadchLastAddr, runLastAddr, State.srcAddr, State.srcRow, State.neurons, hp, hd,
        hs] <;>
      exact decide_eq_decide.2 Iff.rfl
  have hlc : ∀ l, layerCfgError l t = layerCfgError l s := by
    intro l
    have hk : t.kind l = s.kind l := by rw [State.kind, State.kind, hd]
    have hneur : ∀ l, t.neurons l = s.neurons l := fun l => by rw [State.neurons, State.neurons, hd]
    have hw : t.wbase l = s.wbase l := by rw [State.wbase, State.wbase, hd]
    have hb : t.bbase l = s.bbase l := by rw [State.bbase, State.bbase, hd]
    have hks : t.kSide l = s.kSide l := by rw [State.kSide, State.kSide, hd]
    have his : t.inSide l = s.inSide l := by rw [State.inSide, State.inSide, hd]
    have hfi : t.filters l = s.filters l := by rw [State.filters, State.filters, hd]
    have ho : t.outSide l = s.outSide l := by rw [State.outSide, State.outSide, hks, his]
    have h5 : badReference l t = badReference l s := by
      simp only [badReference, hk, hw, hb]
    have h6 : badGeometry l t = badGeometry l s := by
      simp only [badGeometry, hk, hneur, hks, his, hfi, ho]
    have h7 : badTables l t = badTables l s := by
      simp only [badTables, hk, hneur, hw, hb, hks, hfi]
    simp only [layerCfgError, hk, hneur, hp, h5, h6, h7]
  have hcfg : cfgError t = cfgError s := by
    unfold cfgError
    rw [hN, hp]
    simp only [hlc]
  have hlast : lastChecks i t = lastChecks i s := by simp [lastChecks, hq, hcfg]
  simp [acceptError, hf, hc, hr, hm, hlast]

/-- A latched command still passes its own acceptance. -/
theorem acceptError_latch (i : Instr) (w : Word) (s : State) : acceptError i (latch w s) = acceptError i s :=
  acceptError_congr i rfl rfl rfl rfl rfl rfl rfl

end Sys2Proof.Machine
end

