-- ==== Sys2Proof/Laws/Effects.lean ====
section
/-! SUPPORT. What the effects of each command can change, and what the loops of the commands leave. -/

namespace Sys2Proof.Machine

/-! ### The frame common to the effects of every command but SRST -/

/-- `t` differs from `s` at most in the arrays, the count of free choices, the three result registers, and the
SEL, OVF and CONFIGURED bits. -/
def Touches (s t : State) : Prop :=
  ∃ a d co br res sel o c, t = { s with
    arr := a, draws := d, regs.codecOut := co, regs.bitres := br, regs.result := res,
    regs.status.sel := sel, regs.status.ovf := o, regs.status.configured := c }

theorem Touches.refl (s : State) : Touches s s :=
  ⟨s.arr, s.draws, s.regs.codecOut, s.regs.bitres, s.regs.result, s.regs.status.sel, s.regs.status.ovf,
    s.regs.status.configured, rfl⟩

theorem Touches.trans (a b c : State) (h : Touches a b) (h' : Touches b c) : Touches a c := by
  obtain ⟨x1, x2, x3, x4, x5, x6, x7, x8, rfl⟩ := h
  obtain ⟨y1, y2, y3, y4, y5, y6, y7, y8, rfl⟩ := h'
  exact ⟨y1, y2, y3, y4, y5, y6, y7, y8, rfl⟩

/-- A loop of steps that touch no more touches no more. -/
theorem Touches.foldl {α : Type} {f : State → α → State} (h : ∀ s x, Touches s (f s x)) (l : List α) (s : State) :
    Touches s (l.foldl f s) := foldl_rel Touches.refl Touches.trans h l s

theorem touches_arr (s : State) (a : Arrays) : Touches s { s with arr := a } :=
  ⟨a, s.draws, s.regs.codecOut, s.regs.bitres, s.regs.result, s.regs.status.sel, s.regs.status.ovf,
    s.regs.status.configured, rfl⟩

theorem touches_orOvf (s : State) (o : Bool) : Touches s (s.orOvf o) :=
  ⟨s.arr, s.draws, s.regs.codecOut, s.regs.bitres, s.regs.result, s.regs.status.sel, s.regs.status.ovf || o,
    s.regs.status.configured, rfl⟩

theorem touches_sbSet (s : State) (k : Buf) (n t : Nat) (x : Bool) : Touches s (s.sbSet k n t x) := by
  cases k <;> exact touches_arr s _

theorem touches_memRead (s : State) (a : Nat) : Touches s (s.memRead a).2 := by
  obtain ⟨d, hd⟩ := memRead_frame s a
  rw [hd]
  exact ⟨s.arr, d, s.regs.codecOut, s.regs.bitres, s.regs.result, s.regs.status.sel, s.regs.status.ovf,
    s.regs.status.configured, rfl⟩

theorem touches_mapLanes (l n : Nat) (f : Nat → Option (Word × Bool)) (s : State) :
    Touches s (mapLanes l n f s) := by
  obtain ⟨v, o, h⟩ := mapLanes_frame l n f s
  rw [h]
  exact ⟨{ s.arr with v := v }, s.draws, s.regs.codecOut, s.regs.bitres, s.regs.result, s.regs.status.sel, o,
    s.regs.status.configured, rfl⟩

theorem touches_loadSums (ts : List (Nat × Nat)) (s : State) : Touches s (loadSums ts s) := by
  obtain ⟨m, d, h⟩ := loadSums_frame ts s
  rw [h]
  exact ⟨{ s.arr with sum := m }, d, s.regs.codecOut, s.regs.bitres, s.regs.result, s.regs.status.sel,
    s.regs.status.ovf, s.regs.status.configured, rfl⟩

theorem touches_addSum (i : Nat) (x : Int) (s : State) : Touches s (addSum i x s) :=
  Touches.trans _ _ _ (touches_arr s _) (touches_orOvf _ _)

theorem touches_accumulateSums (ts : List (Nat × Nat)) (s : State) : Touches s (accumulateSums ts s) := by
  obtain ⟨m, o, d, h⟩ := accumulateSums_frame ts s
  rw [h]
  exact ⟨{ s.arr with sum := m }, d, s.regs.codecOut, s.regs.bitres, s.regs.result, s.regs.status.sel, o,
    s.regs.status.configured, rfl⟩

theorem touches_loadBit (k a t n : Nat) (s : State) : Touches s (loadBit k a t n s) :=
  Touches.trans _ _ _ (touches_memRead s _) (touches_sbSet _ _ _ _ _)

theorem touches_loadch (c k : Nat) (s : State) : Touches s (loadchEffect c k s) :=
  Touches.foldl (fun s _ => Touches.foldl (fun s _ => touches_loadBit _ _ _ _ s) _ s) _ s

theorem touches_vcmp (l : Nat) (s : State) : Touches s (vcmpEffect l s) :=
  Touches.foldl (fun s _ => touches_arr s _) _ s

theorem touches_vpack (l t : Nat) (s : State) : Touches s (vpackEffect l t s) :=
  Touches.foldl (fun s _ => touches_sbSet s _ _ _ _) _ s

theorem touches_vbias (l : Nat) (s : State) : Touches s (vbiasEffect l s) := by
  unfold vbiasEffect
  split
  · exact Touches.foldl (fun s _ => touches_arr s _) _ s
  · exact touches_loadSums _ s
  · exact touches_loadSums _ s
  · exact Touches.refl s

theorem touches_evacc (l j : Nat) (s : State) : Touches s (evaccEffect l j s) := by
  unfold evaccEffect
  split
  · exact touches_addSum _ _ s
  · exact touches_accumulateSums _ s
  · exact touches_accumulateSums _ s
  · exact Touches.refl s

theorem touches_eventStep (l t : Nat) (s : State) (j : Nat) : Touches s (eventStep l t s j) := by
  unfold eventStep
  split
  · exact touches_evacc l j s
  · exact Touches.refl s

theorem touches_accum (l t : Nat) (s : State) : Touches s (accumEffect l t s) :=
  Touches.trans _ _ _ (touches_vbias l s) (Touches.foldl (fun s j => touches_eventStep l t s j) _ _)

theorem touches_decay (l : Nat) (s : State) : Touches s (decayEffect l s) := by
  unfold decayEffect
  split
  · exact Touches.refl s
  · exact touches_mapLanes _ _ _ s

theorem touches_lifstep (l t : Nat) (s : State) : Touches s (lifstepEffect l t s) := by
  unfold lifstepEffect
  refine Touches.trans _ _ _ ?_ (touches_vpack l t _)
  refine Touches.trans _ _ _ ?_ (touches_mapLanes _ _ _ _)
  refine Touches.trans _ _ _ ?_ (touches_vcmp l _)
  refine Touches.trans _ _ _ ?_ (touches_mapLanes _ _ _ _)
  exact Touches.trans _ _ _ (touches_accum l t s) (touches_decay l _)

theorem touches_layer (l : Nat) (s : State) : Touches s (layerEffect l s) :=
  Touches.foldl (fun s t => touches_lifstep l t s) _ s

theorem touches_swap (s : State) : Touches s (swapEffect s) :=
  ⟨s.arr, s.draws, s.regs.codecOut, s.regs.bitres, s.regs.result, otherBuf s.regs.status.sel, s.regs.status.ovf,
    s.regs.status.configured, rfl⟩

theorem touches_countBit (c t : Nat) (s : State) (i : Nat) : Touches s (countBit c t s i) := by
  unfold countBit
  split
  · exact Touches.trans _ _ _ (touches_arr s _) (touches_orOvf _ _)
  · exact Touches.refl s

theorem touches_count (c : Nat) (s : State) : Touches s (countEffect c s) :=
  Touches.foldl (fun s _ => Touches.foldl (fun s i => touches_countBit _ _ s i) _ s) _ s

theorem touches_classify (s : State) : Touches s (classifyEffect s) :=
  ⟨s.arr, s.draws, s.regs.codecOut, s.regs.bitres, s.classOf, s.regs.status.sel, s.regs.status.ovf,
    s.regs.status.configured, rfl⟩

theorem touches_chunk (k : Nat) (s : State) (c : Nat) : Touches s (chunkEffect k s c) := by
  unfold chunkEffect
  refine Touches.trans _ _ _ ?_ (touches_count c _)
  refine Touches.trans _ _ _ (touches_loadch c k s) (Touches.foldl (fun s l => ?_) _ _)
  exact Touches.trans _ _ _ (touches_layer l s) (touches_swap _)

theorem touches_run (k : Nat) (s : State) : Touches s (runEffect k s) := by
  unfold runEffect
  refine Touches.trans _ _ _ ?_ (touches_classify _)
  refine Touches.trans _ _ _ ?_ (Touches.foldl (fun s c => touches_chunk k s c) _ _)
  exact Touches.trans _ _ _ (touches_arr s _) (touches_arr _ _)

theorem touches_initLayer (l : Nat) (s : State) : Touches s (initLayer l s) :=
  Touches.foldl (fun s _ => Touches.trans _ _ _ (touches_arr s _) (touches_arr _ _)) _ s

theorem touches_init (s : State) : Touches s (initEffect s) := by
  unfold initEffect
  exact Touches.trans _ _ _ (Touches.foldl (fun s l => touches_initLayer l s) (List.range s.nLayers) s)
    ⟨_, _, _, _, _, _, _, true, rfl⟩

/-- The effects of every command but SRST touch nothing else: no error flag, ERRCODE, ERRINFO, CMD, FATAL, no
configuration register, no port register, no TMEM byte, no parameter, no pending input. -/
theorem touches_effectOf {i : Instr} (h : i ≠ .srst) (s : State) : Touches s (effectOf i s) := by
  cases i with
  | nop => exact Touches.refl s
  | srst => exact absurd rfl h
  | init => exact touches_init s
  | zero => exact touches_arr s _
  | clrcnt => exact touches_arr s _
  | quant => exact ⟨s.arr, s.draws, _, s.regs.bitres, s.regs.result, s.regs.status.sel, s.regs.status.ovf,
      s.regs.status.configured, rfl⟩
  | dequant => exact ⟨s.arr, s.draws, _, s.regs.bitres, s.regs.result, s.regs.status.sel, s.regs.status.ovf,
      s.regs.status.configured, rfl⟩
  | sbget r n t => exact ⟨s.arr, s.draws, s.regs.codecOut, _, s.regs.result, s.regs.status.sel,
      s.regs.status.ovf, s.regs.status.configured, rfl⟩
  | sbset r n t v => exact touches_sbSet s _ _ _ _
  | swap => exact touches_swap s
  | loadch c k => exact touches_loadch c k s
  | vclr => exact touches_arr s _
  | vscale l => exact touches_mapLanes l (s.neurons l) (vscaleLane s l) s
  | vadd l => exact touches_mapLanes l (s.neurons l) (vaddLane s l) s
  | vcmp l => exact touches_vcmp l s
  | vsubt l => exact touches_mapLanes _ _ _ s
  | vpack l t => exact touches_vpack l t s
  | vbias l => exact touches_vbias l s
  | evacc l j => exact touches_evacc l j s
  | accum l t => exact touches_accum l t s
  | lifstep l t => exact touches_lifstep l t s
  | layer l => exact touches_layer l s
  | count c => exact touches_count c s
  | classify => exact touches_classify s
  | run k => exact touches_run k s

/-! ### The loops of the single commands -/

/-- A loop of `sb_set` over neurons `0 .. n - 1` of one row of one buffer. -/
theorem foldl_sbSet (k : Buf) (t n : Nat) (x : Nat → Bool) (s : State) (k' : Buf) (n' t' : Nat) :
    ((List.range n).foldl (fun s i => s.sbSet k i t (x i)) s).sbGet k' n' t' =
      if k' = k ∧ n' < n ∧ t' = t then x n' else s.sbGet k' n' t' := by
  induction n with
  | zero => simp
  | succ n ih =>
    rw [List.range_succ, List.foldl_append]
    simp only [List.foldl_cons, List.foldl_nil, sbSet_sbGet, ih]
    by_cases hn : n' = n
    · subst hn; by_cases hk : k' = k <;> by_cases ht : t' = t <;> simp [hk, ht]
    · have : n' < n + 1 ↔ n' < n := by omega
      simp [hn, this]

/-- VCMP changes RF only (R128). -/
theorem vcmp_frame (l : Nat) (s : State) : ∃ m, vcmpEffect l s = { s with arr.rf := m } := by
  unfold vcmpEffect
  refine foldl_rel (R := fun s t : State => ∃ m, t = { s with arr.rf := m }) (fun s => ⟨s.arr.rf, rfl⟩) ?_
    (fun s i => ⟨_, rfl⟩) _ s
  rintro a _ _ ⟨m, rfl⟩ ⟨m', rfl⟩
  exact ⟨m', rfl⟩

/-- What VCMP leaves in every reset flag (R128). -/
theorem vcmp_rfAt (l : Nat) (s : State) (l' i : Nat) :
    (vcmpEffect l s).rfAt l' i =
      if l' = l ∧ i < s.neurons l then BitVec.ofBool (cmpGe (s.vAt l i).toInt (s.thAt l i).toInt)
      else s.rfAt l' i := by
  unfold vcmpEffect
  induction s.neurons l with
  | zero => simp
  | succ n ih =>
    have hf : ∃ m, (List.range n).foldl (fun s i => s.setRf l i
        (BitVec.ofBool (cmpGe (s.vAt l i).toInt (s.thAt l i).toInt))) s = { s with arr.rf := m } := by
      refine foldl_rel (R := fun s t : State => ∃ m, t = { s with arr.rf := m }) (fun s => ⟨s.arr.rf, rfl⟩) ?_
        (fun s i => ⟨_, rfl⟩) _ s
      rintro a _ _ ⟨m, rfl⟩ ⟨m', rfl⟩
      exact ⟨m', rfl⟩
    obtain ⟨m, hm⟩ := hf
    rw [List.range_succ, List.foldl_append]
    simp only [List.foldl_cons, List.foldl_nil, setRf_rfAt, ih]
    rw [hm]
    by_cases hi : i = n
    · subst hi
      by_cases hl : l' = l
      · simp [hl]; rfl
      · simp [hl]
    · have : i < n + 1 ↔ i < n := by omega
      simp [hi, this]

/-- VPACK as one loop of `sb_set` with the flags of the state before it (R130). -/
theorem vpack_eq (l t : Nat) (s : State) :
    vpackEffect l t s =
      (List.range (s.neurons l)).foldl
        (fun u i => u.sbSet (s.roleBuf .B) i t (decide (s.rfAt l i = 1))) s := by
  unfold vpackEffect
  generalize s.neurons l = n
  induction n with
  | zero => rfl
  | succ n ih =>
    rw [List.range_succ, List.foldl_append, List.foldl_append, ih]
    have hf : ∃ b0 b1, (List.range n).foldl
        (fun u i => u.sbSet (s.roleBuf .B) i t (decide (s.rfAt l i = 1))) s =
        { s with arr.sb0 := b0, arr.sb1 := b1 } := by
      refine foldl_rel (R := fun s t : State => ∃ b0 b1, t = { s with arr.sb0 := b0, arr.sb1 := b1 })
        (fun s => ⟨s.arr.sb0, s.arr.sb1, rfl⟩) ?_ (fun s i => sbSet_frame s _ _ _ _) _ s
      rintro a _ _ ⟨b, c, rfl⟩ ⟨b', c', rfl⟩
      exact ⟨b', c', rfl⟩
    obtain ⟨b0, b1, hb⟩ := hf
    rw [hb]
    rfl

/-- What VPACK leaves in every bit of both buffers (R130). -/
theorem vpack_sbGet (l t : Nat) (s : State) (k' : Buf) (n' t' : Nat) :
    (vpackEffect l t s).sbGet k' n' t' =
      if k' = s.roleBuf .B ∧ n' < s.neurons l ∧ t' = t then decide (s.rfAt l n' = 1)
      else s.sbGet k' n' t' := by
  rw [vpack_eq, foldl_sbSet]

/-- VPACK changes the two buffers only (R130). -/
theorem vpack_frame (l t : Nat) (s : State) :
    ∃ b0 b1, vpackEffect l t s = { s with arr.sb0 := b0, arr.sb1 := b1 } := by
  unfold vpackEffect
  refine foldl_rel (R := fun s t : State => ∃ b0 b1, t = { s with arr.sb0 := b0, arr.sb1 := b1 })
    (fun s => ⟨s.arr.sb0, s.arr.sb1, rfl⟩) ?_ (fun s i => sbSet_frame s _ _ _ _) _ s
  rintro a _ _ ⟨b, c, rfl⟩ ⟨b', c', rfl⟩
  exact ⟨b', c', rfl⟩

/-- With TMEM stable, one row of LOADCH: source bits of row `t` (R116). -/
theorem loadRow_sbGet {s : State} (h : s.stale = []) (k a t n : Nat) :
    (∃ b0 b1, (List.range n).foldl (fun s i => loadBit k a t i s) s = { s with arr.sb0 := b0, arr.sb1 := b1 }) ∧
    ∀ k' n' t', ((List.range n).foldl (fun s i => loadBit k a t i s) s).sbGet k' n' t' =
      if k' = s.regs.status.sel ∧ n' < n ∧ t' = t then
        (s.tmemAt (s.srcAddr k a n')).getLsbD (n' % 8)
      else s.sbGet k' n' t' := by
  induction n with
  | zero => exact ⟨⟨s.arr.sb0, s.arr.sb1, rfl⟩, by simp⟩
  | succ n ih =>
    obtain ⟨⟨b0, b1, hb⟩, ih⟩ := ih
    rw [List.range_succ, List.foldl_append]
    simp only [List.foldl_cons, List.foldl_nil]
    have hl : loadBit k a t n ((List.range n).foldl (fun s i => loadBit k a t i s) s) =
        ((List.range n).foldl (fun s i => loadBit k a t i s) s).sbSet s.regs.status.sel n t
          ((s.tmemAt (s.srcAddr k a n)).getLsbD (n % 8)) := by
      rw [hb, loadBit, memRead_stable (by exact h)]
      rfl
    rw [hl]
    refine ⟨?_, fun k' n' t' => ?_⟩
    · obtain ⟨c0, c1, hc⟩ := sbSet_frame ((List.range n).foldl (fun s i => loadBit k a t i s) s)
        s.regs.status.sel n t ((s.tmemAt (s.srcAddr k a n)).getLsbD (n % 8))
      rw [hc, hb]
      exact ⟨c0, c1, rfl⟩
    · rw [sbSet_sbGet, ih]
      by_cases hn : n' = n
      · subst hn; by_cases hk : k' = s.regs.status.sel <;> by_cases ht : t' = t <;> simp [hk, ht]
      · have : n' < n + 1 ↔ n' < n := by omega
        simp [hn, this]

/-- With TMEM stable, LOADCH changes the buffers only, and leaves the chunk's source bits in buffer A (R116). -/
theorem loadch_spec {s : State} (h : s.stale = []) (c k : Nat) :
    (∃ b0 b1, loadchEffect c k s = { s with arr.sb0 := b0, arr.sb1 := b1 }) ∧
    ∀ k' n' t', (loadchEffect c k s).sbGet k' n' t' =
      if k' = s.regs.status.sel ∧ n' < s.neurons 0 ∧ t' < s.params.tau then
        (s.tmemAt (s.srcAddr k (c * s.params.tau + t') n')).getLsbD (n' % 8)
      else s.sbGet k' n' t' := by
  unfold loadchEffect
  have key : ∀ m,
      (∃ b0 b1, (List.range m).foldl (fun u t => (List.range (s.neurons 0)).foldl
        (fun u n => loadBit k (c * s.params.tau + t) t n u) u) s = { s with arr.sb0 := b0, arr.sb1 := b1 }) ∧
      ∀ k' n' t', ((List.range m).foldl (fun u t => (List.range (s.neurons 0)).foldl
        (fun u n => loadBit k (c * s.params.tau + t) t n u) u) s).sbGet k' n' t' =
        if k' = s.regs.status.sel ∧ n' < s.neurons 0 ∧ t' < m then
          (s.tmemAt (s.srcAddr k (c * s.params.tau + t') n')).getLsbD (n' % 8)
        else s.sbGet k' n' t' := by
    intro m
    induction m with
    | zero => exact ⟨⟨s.arr.sb0, s.arr.sb1, rfl⟩, by simp⟩
    | succ m ih =>
      obtain ⟨⟨b0, b1, hb⟩, ih⟩ := ih
      rw [List.range_succ, List.foldl_append]
      simp only [List.foldl_cons, List.foldl_nil]
      set u := (List.range m).foldl (fun u t => (List.range (s.neurons 0)).foldl
        (fun u n => loadBit k (c * s.params.tau + t) t n u) u) s with hu
      have hs : u.stale = [] := by rw [hb]; exact h
      obtain ⟨⟨c0, c1, hc⟩, hrow⟩ := loadRow_sbGet hs k (c * s.params.tau + m) m (s.neurons 0)
      refine ⟨⟨c0, c1, by rw [hc, hb]⟩, fun k' n' t' => ?_⟩
      rw [hrow, ih]
      have e1 : u.regs.status.sel = s.regs.status.sel := by rw [hb]
      have e4 : ∀ a, u.tmemAt a = s.tmemAt a := fun a => by rw [hb]; rfl
      have e5 : ∀ a n, u.srcAddr k a n = s.srcAddr k a n := fun a n => by rw [hb]; rfl
      rw [e1]
      simp only [e4, e5]
      by_cases ht : t' = m
      · subst ht
        by_cases hk : k' = s.regs.status.sel <;> by_cases hn : n' < s.neurons 0 <;> simp [hk, hn]
      · have : t' < m + 1 ↔ t' < m := by omega
        simp [ht, this]
  exact key s.params.tau

/-- INIT's broadcast to one layer (R158). -/
theorem initLayer_spec (l : Nat) (s : State) :
    (∃ m d, initLayer l s = { s with arr.th := m, arr.dk := d }) ∧
    ∀ l' i,
      (initLayer l s).thAt l' i = (if l' = l ∧ i < s.neurons l then (s.desc l).thr else s.thAt l' i) ∧
      (initLayer l s).dkAt l' i = (if l' = l ∧ i < s.neurons l then (s.desc l).decay else s.dkAt l' i) := by
  unfold initLayer
  generalize s.neurons l = n
  induction n with
  | zero => exact ⟨⟨s.arr.th, s.arr.dk, rfl⟩, by simp⟩
  | succ n ih =>
    obtain ⟨⟨m, d, hm⟩, ih⟩ := ih
    rw [List.range_succ, List.foldl_append]
    simp only [List.foldl_cons, List.foldl_nil]
    have e1 : ∀ u : State, (∃ m d, u = { s with arr.th := m, arr.dk := d }) → u.desc l = s.desc l := by
      rintro _ ⟨m, d, rfl⟩; rfl
    have hd := e1 _ ⟨m, d, hm⟩
    refine ⟨by rw [hm]; exact ⟨_, _, rfl⟩, fun l' i => ?_⟩
    obtain ⟨ih1, ih2⟩ := ih l' i
    simp only [setDk_thAt, setDk_dkAt, setTh_thAt, setTh_dkAt, ih1, ih2, hd]
    by_cases hi : i = n
    · subst hi; by_cases hl : l' = l <;> simp [hl]
    · have : i < n + 1 ↔ i < n := by omega
      simp [hi, this]

/-- INIT's broadcast over the first `n` layers (R158). -/
theorem initLayers_spec (n : Nat) (s : State) :
    (∃ m d, (List.range n).foldl (fun s l => initLayer l s) s = { s with arr.th := m, arr.dk := d }) ∧
    ∀ l i,
      ((List.range n).foldl (fun s l => initLayer l s) s).thAt l i =
        (if l < n ∧ i < s.neurons l then (s.desc l).thr else s.thAt l i) ∧
      ((List.range n).foldl (fun s l => initLayer l s) s).dkAt l i =
        (if l < n ∧ i < s.neurons l then (s.desc l).decay else s.dkAt l i) := by
  induction n with
  | zero => exact ⟨⟨s.arr.th, s.arr.dk, rfl⟩, by simp⟩
  | succ n ih =>
    obtain ⟨⟨m, d, hm⟩, ih⟩ := ih
    rw [List.range_succ, List.foldl_append]
    simp only [List.foldl_cons, List.foldl_nil]
    obtain ⟨⟨m', d', hm'⟩, hl⟩ := initLayer_spec n ((List.range n).foldl (fun s l => initLayer l s) s)
    have e1 : ((List.range n).foldl (fun s l => initLayer l s) s).neurons n = s.neurons n := by rw [hm]; rfl
    have e2 : ((List.range n).foldl (fun s l => initLayer l s) s).desc n = s.desc n := by rw [hm]; rfl
    refine ⟨⟨m', d', by rw [hm', hm]⟩, fun l i => ?_⟩
    obtain ⟨h1, h2⟩ := hl l i
    rw [h1, h2, (ih l i).1, (ih l i).2, e1, e2]
    by_cases h : l = n
    · subst h; by_cases hi : i < s.neurons l <;> simp [hi]
    · have : l < n + 1 ↔ l < n := by omega
      simp [h, this]

end Sys2Proof.Machine
end

