-- ==== Sys2Proof/Laws/Encoding.lean ====
section
/-! SUPPORT. The fields of a packed command word. -/

namespace Sys2Proof

theorem packWord_toNat (op x y : Nat) (ho : op < 256) (hx : x < 256) (hy : y < 65536) :
    (packWord op x y).toNat = op * 16777216 + x * 65536 + y := by
  unfold packWord
  rw [BitVec.toNat_append, BitVec.toNat_append, ← Nat.shiftLeft_add_eq_or_of_lt (BitVec.isLt _),
    ← Nat.shiftLeft_add_eq_or_of_lt (BitVec.isLt _)]
  simp [Nat.shiftLeft_eq]
  omega

theorem fieldOp_eq (w : Word) : fieldOp w = w.toNat / 16777216 % 256 := by
  simp [fieldOp, BitVec.extractLsb'_toNat, Nat.shiftRight_eq_div_pow]

theorem fieldX_eq (w : Word) : fieldX w = w.toNat / 65536 % 256 := by
  simp [fieldX, BitVec.extractLsb'_toNat, Nat.shiftRight_eq_div_pow]

theorem fieldY_eq (w : Word) : fieldY w = w.toNat % 65536 := by
  simp [fieldY, BitVec.extractLsb'_toNat]

theorem fieldOp_packWord {op x y : Nat} (ho : op < 256) (hx : x < 256) (hy : y < 65536) :
    fieldOp (packWord op x y) = op := by
  rw [fieldOp_eq, packWord_toNat op x y ho hx hy]; omega

theorem fieldX_packWord {op x y : Nat} (ho : op < 256) (hx : x < 256) (hy : y < 65536) :
    fieldX (packWord op x y) = x := by
  rw [fieldX_eq, packWord_toNat op x y ho hx hy]; omega

theorem fieldY_packWord {op x y : Nat} (ho : op < 256) (hx : x < 256) (hy : y < 65536) :
    fieldY (packWord op x y) = y := by
  rw [fieldY_eq, packWord_toNat op x y ho hx hy]; omega

/-- A word is the packing of its three fields. -/
theorem packWord_fields (w : Word) : packWord (fieldOp w) (fieldX w) (fieldY w) = w := by
  apply BitVec.eq_of_toNat_eq
  have hw := w.isLt
  rw [packWord_toNat _ _ _ (by rw [fieldOp_eq]; omega) (by rw [fieldX_eq]; omega) (by rw [fieldY_eq]; omega),
    fieldOp_eq, fieldX_eq, fieldY_eq]
  omega

end Sys2Proof
end

