-- ==== Sys2Proof/Laws/PerInstr.lean ====
section
/-! SUPPORT. Per-instruction family `Fields`: the three fields of a well-formed command's word are its opcode and
its operands (spec/30_encoding.md R81, R82, R84). -/

namespace Sys2Proof.Laws.Fields

/-- The fields of the command's word, when its operands fit. -/
def Statement (i : Instr) : Prop :=
  i.wf = true → fieldOp (encode i) = opOf i ∧ fieldX (encode i) = xOf i ∧ fieldY (encode i) = yOf i

/-- A command whose fields fit is encoded field by field. -/
theorem of_bounds {i : Instr} (ho : opOf i < 256) (hx : xOf i < 256) (hy : yOf i < 65536) :
    fieldOp (encode i) = opOf i ∧ fieldX (encode i) = xOf i ∧ fieldY (encode i) = yOf i :=
  ⟨fieldOp_packWord ho hx hy, fieldX_packWord ho hx hy, fieldY_packWord ho hx hy⟩

theorem nop : Statement .nop := fun _ => of_bounds (by decide) (by decide) (by decide)

theorem srst : Statement .srst := fun _ => of_bounds (by decide) (by decide) (by decide)

theorem init : Statement .init := fun _ => of_bounds (by decide) (by decide) (by decide)

theorem zero : Statement .zero := fun _ => of_bounds (by decide) (by decide) (by decide)

theorem clrcnt : Statement .clrcnt := fun _ => of_bounds (by decide) (by decide) (by decide)

theorem quant : Statement .quant := fun _ => of_bounds (by decide) (by decide) (by decide)

theorem dequant : Statement .dequant := fun _ => of_bounds (by decide) (by decide) (by decide)

theorem sbget (r : Role) (n t : Nat) : Statement (.sbget r n t) := by
  intro h
  simp only [Instr.wf, fitsX, fitsY, Bool.and_eq_true, decide_eq_true_eq] at h
  exact of_bounds (by cases r <;> simp [opOf, roleBit]) h.1 h.2

theorem sbset (r : Role) (n t : Nat) (v : Bool) : Statement (.sbset r n t v) := by
  intro h
  simp only [Instr.wf, fitsX, fitsY, Bool.and_eq_true, decide_eq_true_eq] at h
  exact of_bounds (by cases r <;> cases v <;> simp [opOf, roleBit, valueBit]) h.1 h.2

theorem swap : Statement .swap := fun _ => of_bounds (by decide) (by decide) (by decide)

theorem loadch (c k : Nat) : Statement (.loadch c k) := by
  intro h
  simp only [Instr.wf, fitsX, fitsY, Bool.and_eq_true, decide_eq_true_eq] at h
  exact of_bounds (by simp [opOf]) h.1 h.2

theorem vclr : Statement .vclr := fun _ => of_bounds (by decide) (by decide) (by decide)

theorem vscale (l : Nat) : Statement (.vscale l) := by
  intro h
  simp only [Instr.wf, fitsX, decide_eq_true_eq] at h
  exact of_bounds (by simp [opOf]) h (by simp [yOf])

theorem vadd (l : Nat) : Statement (.vadd l) := by
  intro h
  simp only [Instr.wf, fitsX, decide_eq_true_eq] at h
  exact of_bounds (by simp [opOf]) h (by simp [yOf])

theorem vcmp (l : Nat) : Statement (.vcmp l) := by
  intro h
  simp only [Instr.wf, fitsX, decide_eq_true_eq] at h
  exact of_bounds (by simp [opOf]) h (by simp [yOf])

theorem vsubt (l : Nat) : Statement (.vsubt l) := by
  intro h
  simp only [Instr.wf, fitsX, decide_eq_true_eq] at h
  exact of_bounds (by simp [opOf]) h (by simp [yOf])

theorem vpack (l t : Nat) : Statement (.vpack l t) := by
  intro h
  simp only [Instr.wf, fitsX, fitsY, Bool.and_eq_true, decide_eq_true_eq] at h
  exact of_bounds (by simp [opOf]) h.1 h.2

theorem vbias (l : Nat) : Statement (.vbias l) := by
  intro h
  simp only [Instr.wf, fitsX, decide_eq_true_eq] at h
  exact of_bounds (by simp [opOf]) h (by simp [yOf])

theorem evacc (l j : Nat) : Statement (.evacc l j) := by
  intro h
  simp only [Instr.wf, fitsX, fitsY, Bool.and_eq_true, decide_eq_true_eq] at h
  exact of_bounds (by simp [opOf]) h.1 h.2

theorem accum (l t : Nat) : Statement (.accum l t) := by
  intro h
  simp only [Instr.wf, fitsX, fitsY, Bool.and_eq_true, decide_eq_true_eq] at h
  exact of_bounds (by simp [opOf]) h.1 h.2

theorem lifstep (l t : Nat) : Statement (.lifstep l t) := by
  intro h
  simp only [Instr.wf, fitsX, fitsY, Bool.and_eq_true, decide_eq_true_eq] at h
  exact of_bounds (by simp [opOf]) h.1 h.2

theorem layer (l : Nat) : Statement (.layer l) := by
  intro h
  simp only [Instr.wf, fitsX, decide_eq_true_eq] at h
  exact of_bounds (by simp [opOf]) h (by simp [yOf])

theorem count (c : Nat) : Statement (.count c) := by
  intro h
  simp only [Instr.wf, fitsX, decide_eq_true_eq] at h
  exact of_bounds (by simp [opOf]) h (by simp [yOf])

theorem classify : Statement .classify := fun _ => of_bounds (by decide) (by decide) (by decide)

theorem run (k : Nat) : Statement (.run k) := by
  intro h
  simp only [Instr.wf, fitsY, decide_eq_true_eq] at h
  exact of_bounds (by simp [opOf]) (by simp [xOf]) h

end Sys2Proof.Laws.Fields
end

