-- ==== Sys2Proof/Laws/Step.lean ====
section
/-! SUPPORT. Everything a step can do, said once: by kind of input, and for the Complete step and the register
port. -/

namespace Sys2Proof.Machine

/-! ### The platform's store -/

@[simp] theorem platformStore_params (a : Word) (b : Byte) (s : State) : (platformStore a b s).params = s.params := rfl
@[simp] theorem platformStore_regs (a : Word) (b : Byte) (s : State) : (platformStore a b s).regs = s.regs := rfl
@[simp] theorem platformStore_arr (a : Word) (b : Byte) (s : State) : (platformStore a b s).arr = s.arr := rfl
@[simp] theorem platformStore_draws (a : Word) (b : Byte) (s : State) : (platformStore a b s).draws = s.draws := rfl
@[simp] theorem platformStore_rdata (a : Word) (b : Byte) (s : State) : (platformStore a b s).rdata = s.rdata := rfl
@[simp] theorem platformStore_inputs (a : Word) (b : Byte) (s : State) : (platformStore a b s).inputs = s.inputs := rfl

/-- The record grows by the replaced byte while a command runs, and only then (R76). -/
@[simp] theorem platformStore_stale (a : Word) (b : Byte) (s : State) :
    (platformStore a b s).stale =
      if s.regs.status.busy = true then (a.toNat, s.tmemAt a.toNat) :: s.stale else s.stale := rfl

/-- What a recorded address remembers (R76). -/
theorem mem_staleAt {s : State} {a : Nat} {b : Byte} : b ∈ s.staleAt a ↔ (a, b) ∈ s.stale := by
  simp [State.staleAt]

/-! ### The Complete step -/

/-- Everything the Complete step can answer as a next state. -/
theorem completeStep_cases {s t : State} (h : completeStep s = .next t) :
    (s.regs.status.busy = false ∧ t = s) ∨
    (s.regs.status.busy = true ∧ ∃ i, decode s.regs.cmd = .ok i ∧ t = finish (effectOf i s)) := by
  unfold completeStep at h
  split at h
  · next hb =>
    split at h
    · next i hi => exact .inr ⟨hb, i, hi, (Host.Outcome.next.inj h).symm⟩
    · cases h
  · next hb => exact .inl ⟨by simpa using hb, (Host.Outcome.next.inj h).symm⟩

/-! ### The register port -/

/-- A transaction passes the port exactly when no check of R21 fails. -/
theorem portCheck_eq_ok {isWrite : Bool} {off width : Nat} {s : State} {r : Reg} :
    portCheck isWrite off width s = .ok r ↔
      off % 4 = 0 ∧ width = 32 ∧ regAt s.params.maxLayers off = some r ∧ regError isWrite r s = none := by
  unfold portCheck
  by_cases h : off % 4 = 0 ∧ width = 32
  · rw [if_pos h]
    cases hr : regAt s.params.maxLayers off with
    | none => simp
    | some q => cases he : regError isWrite q s <;> aesop
  · rw [if_neg h]
    simp only [reduceCtorEq, false_iff]
    exact fun hc => h ⟨hc.1, hc.2.1⟩

/-- Everything a register read can do: answer a register, or be refused and answer 0. -/
theorem hostRead_cases (off width : Nat) (s : State) :
    (∃ r, portCheck false off width s = .ok r ∧ hostRead off width s = { s with rdata := readReg r s }) ∨
    (∃ sub, portCheck false off width s = .error sub ∧
      hostRead off width s = { raise (accessError sub off) s with rdata := 0 }) := by
  unfold hostRead
  cases portCheck false off width s with
  | ok r => exact .inl ⟨r, rfl, rfl⟩
  | error sub => exact .inr ⟨sub, rfl, rfl⟩

/-- Everything a register write can do: write a register, or be refused. -/
theorem hostWrite_cases (off width : Nat) (v : Word) (s : State) :
    (∃ r, portCheck true off width s = .ok r ∧ hostWrite off width v s = writeReg r v s) ∨
    (∃ sub, portCheck true off width s = .error sub ∧
      hostWrite off width v s = raise (accessError sub off) s) := by
  unfold hostWrite
  cases portCheck true off width s with
  | ok r => exact .inl ⟨r, rfl, rfl⟩
  | error sub => exact .inr ⟨sub, rfl, rfl⟩

/-- Everything a word written to CMD can do once the port has let it through. -/
theorem acceptWord_cases (w : Word) (s : State) :
    (acceptWord w s = raise { kind := .illcmd, info := w } s ∧ ∃ d, decode w = .error d) ∨
    (∃ i e, decode w = .ok i ∧ acceptError i s = some e ∧ acceptWord w s = raise e s) ∨
    (∃ i, decode w = .ok i ∧ acceptError i s = none ∧ acceptWord w s = latch w s) := by
  unfold acceptWord
  cases hd : decode w with
  | error d => exact .inl ⟨rfl, d, rfl⟩
  | ok i =>
    cases he : acceptError i s with
    | some e => exact .inr (.inl ⟨i, e, rfl, he, by simp [he]⟩)
    | none => exact .inr (.inr ⟨i, rfl, he, by simp [he]⟩)

/-! ### The step -/

/-- What the step that takes input `e` does, from the state `u` with the input taken, when it answers `t`. -/
def TakesInput (e : Input) (u t : State) : Prop :=
  match e with
  | .regRead off width => t = hostRead off width u
  | .regWrite off width v => t = hostWrite off width v u
  | .command w =>
    (∃ i, decode w = .ok i ∧ exec i u = .next t) ∨
    ((∃ d, decode w = .error d) ∧
      ((u.regs.status.busy = true ∧ t = refuseBusyCommand u) ∨
        (u.regs.status.busy = false ∧ t = raise { kind := .illcmd, info := w } u)))
  | .complete => completeStep u = .next t
  | .hwReset a => t = hardReset a u
  | .tmemWrite a b => t = platformStore a b u

/-- Everything a step that answers a next state can do. -/
theorem step_cases {s t : State} (h : step s = .next t) :
    (s.inputs = [] ∧ completeStep s = .next t) ∨
    ∃ e rest, s.inputs = e :: rest ∧ TakesInput e { s with inputs := rest } t := by
  unfold step fetch at h
  cases hs : s.inputs with
  | nil => rw [hs] at h; exact .inl ⟨rfl, h⟩
  | cons e rest =>
    rw [hs] at h
    refine .inr ⟨e, rest, rfl, ?_⟩
    cases e with
    | regRead off width => exact (Host.Outcome.next.inj h).symm
    | regWrite off width v => exact (Host.Outcome.next.inj h).symm
    | complete => exact h
    | hwReset a => exact (Host.Outcome.next.inj h).symm
    | tmemWrite a b => exact (Host.Outcome.next.inj h).symm
    | command w =>
      simp only [fetchInput, fetchCommand] at h
      cases hd : decode w with
      | ok i => rw [hd] at h; exact .inl ⟨i, hd, h⟩
      | error d =>
        rw [hd] at h
        refine .inr ⟨⟨d, hd⟩, ?_⟩
        cases hb : s.regs.status.busy with
        | true => exact .inl ⟨rfl, by simpa [hb] using h.symm⟩
        | false => exact .inr ⟨rfl, by simpa [hb] using h.symm⟩

end Sys2Proof.Machine
end

