-- ==== Sys2Proof/Tests/Slice0.lean ====
section
/-! SUPPORT. The implementer's own tests.  Expected values come from spec/95_test_vectors.md (the group is named at
each test), from the examples of the rules, or from the encodings of spec/30_encoding.md written out by hand.  The
witnesses at the end show, for each statement with hypotheses, a state and operands that meet them. -/

namespace Sys2Proof.Tests

open Sys2Proof Sys2Proof.Machine

-- One theorem after the other: proofs that wait for the kernel side by side hold one thread each.
set_option Elab.async false

/-! ### Well-formedness: each check refuses an ill-formed command -/

theorem test_wf_sbget_x : (Instr.sbget .A 0 256).wf = false := by decide
theorem test_wf_sbget_y : (Instr.sbget .A 65536 0).wf = false := by decide
theorem test_wf_sbset_x : (Instr.sbset .B 0 256 true).wf = false := by decide
theorem test_wf_sbset_y : (Instr.sbset .B 65536 0 true).wf = false := by decide
theorem test_wf_loadch_x : (Instr.loadch 256 0).wf = false := by decide
theorem test_wf_loadch_y : (Instr.loadch 0 65536).wf = false := by decide
theorem test_wf_vscale : (Instr.vscale 256).wf = false := by decide
theorem test_wf_vadd : (Instr.vadd 256).wf = false := by decide
theorem test_wf_vcmp : (Instr.vcmp 256).wf = false := by decide
theorem test_wf_vsubt : (Instr.vsubt 256).wf = false := by decide
theorem test_wf_vpack : (Instr.vpack 256 0).wf = false ∧ (Instr.vpack 0 65536).wf = false := by decide
theorem test_wf_vbias : (Instr.vbias 256).wf = false := by decide
theorem test_wf_evacc : (Instr.evacc 256 0).wf = false ∧ (Instr.evacc 0 65536).wf = false := by decide
theorem test_wf_accum : (Instr.accum 256 0).wf = false ∧ (Instr.accum 0 65536).wf = false := by decide
theorem test_wf_lifstep : (Instr.lifstep 256 0).wf = false ∧ (Instr.lifstep 0 65536).wf = false := by decide
theorem test_wf_layer : (Instr.layer 256).wf = false := by decide
theorem test_wf_count : (Instr.count 256).wf = false := by decide
theorem test_wf_run : (Instr.run 65536).wf = false := by decide
theorem test_wf_last : (Instr.run 65535).wf = true ∧ (Instr.evacc 255 65535).wf = true := by decide

/-! ### Decoding: one word per constructor, written out from R84, R87 and group V1 -/

theorem test_decode_nop : decode 0x00000000 = .ok .nop := by decide
theorem test_decode_srst : decode 0x01000000 = .ok .srst := by decide
theorem test_decode_init : decode 0x02000000 = .ok .init := by decide
theorem test_decode_zero : decode 0x03000000 = .ok .zero := by decide
theorem test_decode_clrcnt : decode 0x04000000 = .ok .clrcnt := by decide
theorem test_decode_quant : decode 0x08000000 = .ok .quant := by decide
theorem test_decode_dequant : decode 0x09000000 = .ok .dequant := by decide
theorem test_decode_sbget : decode 0x1001000F = .ok (.sbget .A 15 1) ∧ decode 0x1101000F = .ok (.sbget .B 15 1) := by
  decide
theorem test_decode_sbset : decode 0x1401_0005 = .ok (.sbset .A 5 1 false) ∧
    decode 0x15010005 = .ok (.sbset .B 5 1 false) ∧ decode 0x16010005 = .ok (.sbset .A 5 1 true) ∧
    decode 0x17FFFFFF = .ok (.sbset .B 65535 255 true) := by decide
theorem test_decode_swap : decode 0x18000000 = .ok .swap := by decide
theorem test_decode_loadch : decode 0x19010003 = .ok (.loadch 1 3) := by decide
theorem test_decode_vclr : decode 0x20000000 = .ok .vclr := by decide
theorem test_decode_vscale : decode 0x21030000 = .ok (.vscale 3) := by decide
theorem test_decode_vadd : decode 0x22010000 = .ok (.vadd 1) := by decide
theorem test_decode_vcmp : decode 0x23010000 = .ok (.vcmp 1) := by decide
theorem test_decode_vsubt : decode 0x24010000 = .ok (.vsubt 1) := by decide
theorem test_decode_vpack : decode 0x25FFFFFF = .ok (.vpack 255 65535) := by decide
theorem test_decode_vbias : decode 0x28010000 = .ok (.vbias 1) := by decide
theorem test_decode_evacc : decode 0x29010009 = .ok (.evacc 1 9) := by decide
theorem test_decode_accum : decode 0x2A000001 = .ok (.accum 0 1) := by decide
theorem test_decode_lifstep : decode 0x30010002 = .ok (.lifstep 1 2) := by decide
theorem test_decode_layer : decode 0x31020000 = .ok (.layer 2) := by decide
theorem test_decode_count : decode 0x38010000 = .ok (.count 1) := by decide
theorem test_decode_classify : decode 0x39000000 = .ok .classify := by decide
theorem test_decode_run : decode 0x3A00FFFF = .ok (.run 65535) := by decide

/-- The illegal words of group V1. -/
theorem test_decode_illegal : decode 0x05000000 = .error .unassignedOpcode ∧
    decode 0x0A000000 = .error .unassignedOpcode ∧ decode 0x12000000 = .error .unassignedOpcode ∧
    decode 0x13050001 = .error .unassignedOpcode ∧ decode 0x2BFF0000 = .error .unassignedOpcode ∧
    decode 0xFFFFFFFF = .error .unassignedOpcode ∧ decode 0x00000001 = .error .nonzeroField ∧
    decode 0x18000001 = .error .nonzeroField ∧ decode 0x21030001 = .error .nonzeroField ∧
    decode 0x31000100 = .error .nonzeroField ∧ decode 0x39000100 = .error .nonzeroField ∧
    decode 0x3A010000 = .error .nonzeroField := by decide

/-- Encoding examples of R87. -/
theorem test_encode : encode (.sbset .B 5 1 true) = 0x17010005 ∧ encode (.loadch 1 3) = 0x19010003 ∧
    encode (.vpack 1 0) = 0x25010000 ∧ encode (.run 7) = 0x3A000007 ∧ encode .init = 0x02000000 := by decide

/-- Listing lines of R87. -/
theorem test_listing : listing (.sbset .B 5 1 true) = "SBSET B, 5, 1, 1" ∧ listing (.evacc 1 9) = "EVACC 1, 9" ∧
    listing .init = "INIT" := by decide +kernel

theorem test_decodeTableWord : decodeTableWord 32 0x29010009 = some (.evacc 1 9) ∧
    decodeTableWord 32 0x00000001 = none := by decide

/-! ### States -/

/-- The observation `f` of the next state. -/
def look {α : Type} (f : State → α) (o : Host.Outcome State Fault Refusal) : Option α :=
  match o with
  | .next s => some (f s)
  | .fault _ => none
  | .refused _ => none

/-- STATUS, ERRCODE, ERRINFO as they read. -/
def errors (s : State) : Word × Byte × Word := (statusWord s.regs.status, s.regs.errcode, s.regs.errinfo)

/-- A unit of CFG-T straight after reset. -/
def fresh : State := State.afterReset Config.params .zero []

/-- The descriptors of program P1. -/
def p1Layers : List LayerDesc :=
  [{ LayerDesc.zero with neur := 4, thr := 128, decay := 128 },
    { LayerDesc.zero with kind := 2, neur := 2, thr := 100, decay := 96, wbase := 0x1000, bbase := 0x1100 },
    .zero, .zero]

/-- The tables of program P1 (the spike source is at 0x2000; a byte 0 is not listed). -/
def p1Mem : List Host.Cell :=
  [(0x1000, 0x40), (0x1001, 0x20), (0x1002, 0xF0), (0x1003, 0x08), (0x1004, 0xF8), (0x1005, 0x64), (0x1006, 0x32),
    (0x1007, 0x14), (0x1101, 0x04), (0x2000, 0x0A), (0x2001, 0x05), (0x2002, 0x0F), (0x2004, 0x02), (0x2005, 0x02),
    (0x2006, 0x02), (0x2007, 0x02)]

/-- Program P1 before its INIT. -/
def p1Before : State :=
  { fresh with regs.nlayers := 2, regs.layers := p1Layers, regs.srcBase := 0x2000, tmem := p1Mem }

/-- Program P1 after its INIT, thresholds and decay rates as INIT leaves them. -/
def p1 : State :=
  { p1Before with
    regs.status.configured := true
    arr.th := [((0, 0), 128), ((0, 1), 128), ((0, 2), 128), ((0, 3), 128), ((1, 0), 100), ((1, 1), 100)]
    arr.dk := [((0, 0), 128), ((0, 1), 128), ((0, 2), 128), ((0, 3), 128), ((1, 0), 96), ((1, 1), 96)] }

/-- The Conv descriptor of program P2. -/
def p2Conv : LayerDesc :=
  { kind := 1, neur := 4, thr := 20, decay := 64, wbase := 0x3000, bbase := 0x3100, inSide := 4, kSide := 3, filt := 1 }

/-- The network of program P2: a Conv layer of IN_SIDE = 4, K = 3, F = 1. -/
def p2 : State :=
  { p1 with
    regs.layers := [{ LayerDesc.zero with neur := 16, thr := 128, decay := 128 }, p2Conv, .zero, .zero]
    tmem := [(0x3000, 1), (0x3001, 2), (0x3002, 3), (0x3003, 4), (0x3004, 5), (0x3005, 6), (0x3006, 7), (0x3007, 8),
      (0x3008, 0xF7), (0x3100, 10)] }

/-- A command is running. -/
def busy (w : Word) (s : State) : State := { s with regs.cmd := w, regs.status.busy := true }

/-! ### One step of each command -/

/-- Example of R155. -/
theorem test_nop : look (fun t => (t.regs.cmd, t.regs.status)) (exec .nop p1) = some (0, p1.regs.status) := by decide

/-- Example of R156: after a refused INIT (STATUS = 0x104), SRST gives STATUS = 0; the arrays are kept. -/
theorem test_srst : look (fun t => (errors t, t.vAt 0 0))
    (exec .srst { refusedCfg 4 1 fresh with arr.v := [((0, 0), 5)] }) = some ((0, 0, 0), 5) := by decide

/-- Group V7: the accepted INIT of P1. -/
theorem test_init : look errors (exec .init p1Before) = some (2, 0, 0) ∧
    look (fun t => t.arr) (exec .init p1Before) = some p1.arr := by decide +kernel

/-- Group V7: L[1].LNEUR = 0 is sub 4 of layer 1. -/
theorem test_init_refused : look errors (exec .init { p1Before with
    regs.layers := p1Layers.set 1 { LayerDesc.zero with kind := 2, wbase := 0x1000, bbase := 0x1100 } }) =
    some (0x104, 1, 0x401) := by decide +kernel

/-- Example of R159. -/
theorem test_zero : look (fun t => (t.vAt 3 15, t.rfAt 0 1, t.sumAt 2))
    (exec .zero { fresh with arr.v := [((3, 15), 7)], arr.rf := [((0, 1), 1)], arr.sum := [((0, 2), 9)] }) =
    some (0, 0, 9) := by decide

/-- Group V8: RESULT is not touched by CLRCNT. -/
theorem test_clrcnt : look (fun t => (t.countAt 1 1, t.regs.result))
    (exec .clrcnt { fresh with arr.counts := [((1, 1), 2)], regs.result := 1 }) = some (0, 1) := by decide

/-- Group V2: -1/256 is half-way and goes away from zero. -/
theorem test_quant : look (fun t => t.regs.codecOut) (exec .quant { fresh with regs.codecIn := 0xBB800000 }) =
    some 0xFFFFFFFF := by decide +kernel

/-- Group V2: a NaN is refused. -/
theorem test_quant_nan : look errors (exec .quant { fresh with regs.codecIn := 0x7F800001 }) =
    some (0x2000, 6, 0x7F800001) := by decide

/-- Group V2: the code 0x81 is -127; bits 31:8 of CODEC_IN are ignored. -/
theorem test_dequant : look (fun t => t.regs.codecOut) (exec .dequant { fresh with regs.codecIn := 0x12345681 }) =
    some 0xBF7E0000 := by decide +kernel

/-- Example of R113: SB[0][1][0] = 0x20, `SBGET A, 5, 1` gives 1. -/
theorem test_sbget : look (fun t => t.regs.bitres)
    (exec (.sbget .A 5 1) { fresh with arr.sb0 := [((1, 0), 0x20)] }) = some true := by decide

/-- Group V3: t = TAU is refused. -/
theorem test_sbget_refused : look errors (exec (.sbget .A 0 2) fresh) = some (0x200, 2, 0x10020000) := by decide

/-- Example of R114: `SBSET B, 9, 0, 1` makes SB[1][0][1] = 0x02. -/
theorem test_sbset : look (fun t => (t.arr.sb0, t.arr.sb1)) (exec (.sbset .B 9 0 true) fresh) =
    some ([], [((0, 1), 0x02)]) := by decide

/-- Group V3: clearing a bit with the roles swapped. -/
theorem test_sbset_clear : look (fun t => (t.arr.sb0, t.arr.sb1))
    (exec (.sbset .B 11 0 false) { fresh with
      regs.status.sel := .sb1, arr.sb0 := [((0, 1), 0x08)], arr.sb1 := [((1, 1), 0x80)] }) =
    some ([], [((1, 1), 0x80)]) := by decide

/-- Group V3: after SWAP, STATUS = 0x8. -/
theorem test_swap : look errors (exec .swap fresh) = some (8, 0, 0) := by decide

/-- Group V4: `LOADCH 0, 0` with every buffer byte 0xFF. -/
theorem test_loadch : look (fun t => t.arr.sb0)
    (exec (.loadch 0 0) { p1 with arr.sb0 := [((0, 0), 0xFF), ((0, 1), 0xFF), ((1, 0), 0xFF), ((1, 1), 0xFF)] }) =
    some [((0, 0), 0xFA), ((0, 1), 0xFF), ((1, 0), 0xF5), ((1, 1), 0xFF)] := by decide +kernel

/-- Group V4: `LOADCH 0, 1` at SRC_BASE = 0xFFFFFFFC passes 2^32. -/
theorem test_loadch_refused : look errors (exec (.loadch 0 1) { p1 with regs.srcBase := 0xFFFFFFFC }) =
    some (0x4002, 7, 0x19000001) := by decide

/-- Example of R125. -/
theorem test_vclr : look (fun t => t.sumAt 3) (exec .vclr { fresh with arr.sum := [((0, 3), 9)] }) = some 0 := by
  decide

/-- Example of R126: 100 and -101 at decay 96 give 75 and -76. -/
theorem test_vscale : look (fun t => ((t.vAt 1 0).toInt, (t.vAt 1 1).toInt))
    (exec (.vscale 1) { p1 with arr.v := [((1, 0), 100), ((1, 1), BitVec.ofInt 32 (-101))] }) =
    some (75, -76) := by decide +kernel

/-- Group V5: 0x7FFFFFFF at decay 32767 wraps to 0xFEFFFF00; the product is kept in full before the shift. -/
theorem test_vscale_wraps : look (fun t => (t.vAt 1 0, t.regs.status.ovf))
    (exec (.vscale 1) { p1 with arr.v := [((1, 0), 0x7FFFFFFF)], arr.dk := [((1, 0), 32767)] }) =
    some (0xFEFFFF00, true) := by decide +kernel

/-- Example of R127: V = 0x7FFFFFFF and SUM = 1 wrap. -/
theorem test_vadd : look (fun t => (t.vAt 1 0, t.regs.status.ovf))
    (exec (.vadd 1) { p1 with arr.v := [((1, 0), 0x7FFFFFFF)], arr.sum := [((0, 0), 1)] }) =
    some (0x80000000, true) := by decide +kernel

/-- Example of R128: at and just below the threshold 100. -/
theorem test_vcmp : look (fun t => (t.rfAt 1 0, t.rfAt 1 1))
    (exec (.vcmp 1) { p1 with arr.v := [((1, 0), 100), ((1, 1), 99)], arr.rf := [((1, 1), 1)] }) =
    some (1, 0) := by decide +kernel

/-- Example of R129. -/
theorem test_vsubt : look (fun t => (t.vAt 1 0, t.vAt 1 1))
    (exec (.vsubt 1) { p1 with arr.v := [((1, 0), 105), ((1, 1), 99)], arr.rf := [((1, 0), 1)] }) =
    some (5, 99) := by decide +kernel

/-- Group V5: TH = 0x8000 on V = 0x7FFFFFFF adds 32768 and wraps. -/
theorem test_vsubt_wraps : look (fun t => (t.vAt 1 0, t.regs.status.ovf))
    (exec (.vsubt 1) { p1 with
      arr.v := [((1, 0), 0x7FFFFFFF)], arr.rf := [((1, 0), 1)], arr.th := [((1, 0), 0x8000)] }) =
    some (0x80007FFF, true) := by decide +kernel

/-- Group V5: `VPACK 1, 1` on the byte 0xAA with flags (1, 0) gives 0xA9. -/
theorem test_vpack : look (fun t => t.arr.sb1)
    (exec (.vpack 1 1) { p1 with arr.rf := [((1, 0), 1)], arr.sb1 := [((1, 0), 0xAA)] }) =
    some [((1, 0), 0xA9)] := by decide +kernel

/-- Group V6: `VBIAS 1` gives (0, 4); the accumulators above n(1) keep their values. -/
theorem test_vbias : look (fun t => (t.sumAt 0, t.sumAt 1, t.sumAt 2))
    (exec (.vbias 1) { p1 with arr.sum := [((0, 0), 7), ((0, 2), 7)] }) = some (0, 4, 7) := by decide +kernel

/-- R136 on a Conv layer: the bias 10 of the one filter at its four positions. -/
theorem test_vbias_conv : look (fun t => (t.sumAt 0, t.sumAt 3)) (exec (.vbias 1) p2) = some (10, 10) := by
  decide +kernel

/-- Example of R139: `EVACC 1, 1` on (0, 4) gives (32, 104). -/
theorem test_evacc : look (fun t => (t.sumAt 0, t.sumAt 1))
    (exec (.evacc 1 1) { p1 with arr.sum := [((0, 1), 4)] }) = some (32, 104) := by decide +kernel

/-- Group V6: the event j = 10 of the Conv layer. -/
theorem test_evacc_conv : look (fun t => [(t.sumAt 0).toInt, (t.sumAt 1).toInt, (t.sumAt 2).toInt, (t.sumAt 3).toInt])
    (exec (.evacc 1 10) p2) = some [-9, 8, 6, 5] := by decide +kernel

/-- Group V6: row 0xFA; bits 7:4 lie beyond n_in(1). -/
theorem test_accum : look (fun t => (t.sumAt 0, t.sumAt 1))
    (exec (.accum 1 0) { p1 with arr.sb0 := [((0, 0), 0xFA)] }) = some (40, 124) := by decide +kernel

/-- Group S3: pixels 0 and 15 through the Conv layer. -/
theorem test_accum_conv : look (fun t => [(t.sumAt 0).toInt, (t.sumAt 1).toInt, (t.sumAt 2).toInt, (t.sumAt 3).toInt])
    (exec (.accum 1 0) { p2 with arr.sb0 := [((0, 0), 0x01), ((0, 1), 0x80)] }) = some [11, 10, 10, 1] := by
  decide +kernel

/-- Program P1, LIFSTEP 1, 0: row 0xA gives V[1] = (40, 24), flags (0, 1), and 0b10 in row 0 of B. -/
theorem test_lifstep : look (fun t => [t.vAt 1 0, t.vAt 1 1, (t.rfAt 1 0).setWidth 32, (t.rfAt 1 1).setWidth 32,
      (t.sbAt .sb0 0 0).setWidth 32])
    (exec (.lifstep 1 0) { p1 with regs.status.sel := .sb1, arr.sb1 := [((0, 0), 0x0A)] }) =
    some [40, 24, 0, 1, 2] := by decide +kernel

/-- Program P1, LAYER 1: rows 0xA, 0x5 leave V[1] = (78, 64). -/
theorem test_layer : look (fun t => (t.vAt 1 0, t.vAt 1 1, t.arr.sb0))
    (exec (.layer 1) { p1 with regs.status.sel := .sb1, arr.sb1 := [((0, 0), 0x0A), ((1, 0), 0x05)] }) =
    some (78, 64, [((0, 0), 0x02)]) := by decide +kernel

/-- Group V8: rows 0x02, 0x03 give COUNTS[.][1] = (1, 2). -/
theorem test_count : look (fun t => (t.countAt 0 1, t.countAt 1 1, t.countAt 0 0))
    (exec (.count 1) { p1 with arr.sb0 := [((0, 0), 0x02), ((1, 0), 0x03)] }) = some (1, 2, 0) := by decide +kernel

/-- Group V8: both cells wrap through 0 and OVF is set. -/
theorem test_count_wraps : look (fun t => (t.countAt 0 0, t.countAt 1 0, statusWord t.regs.status))
    (exec (.count 0) { p1 with
      arr.sb0 := [((0, 0), 0x02), ((1, 0), 0x03)]
      arr.counts := [((0, 0), 0xFFFFFFFF), ((0, 1), 1), ((1, 0), 0xFFFFFFFF)] }) = some (0, 1, 0x10002) := by
  decide +kernel

/-- Group V8: totals 2^32 and 2^32 - 1 are exact. -/
theorem test_classify : look (fun t => t.regs.result)
    (exec .classify { p1 with
      arr.counts := [((0, 0), 0xFFFFFFFF), ((0, 1), 1), ((1, 0), 0xFFFFFFFF)], regs.result := 5 }) = some 0 := by
  decide +kernel

/-- Group V8: a tie goes to the lowest index, and no firing to "no class". -/
theorem test_classify_none : look (fun t => t.regs.result) (exec .classify { p1 with regs.result := 5 }) =
    some 0x80000000 := by decide +kernel

/-- Program P1: RESULT of `RUN 0`. -/
theorem test_run : look (fun t => (t.regs.result, statusWord t.regs.status)) (exec (.run 0) p1) = some (1, 2) := by
  decide +kernel

/-- Group V4: `RUN 1` at SRC_BASE = 0xFFFFFFFC passes 2^32. -/
theorem test_run_refused : look errors (exec (.run 1) { p1 with regs.srcBase := 0xFFFFFFFC }) =
    some (0x4002, 7, 0x3A000001) := by decide

/-! ### The port, the errors and the steps -/

/-- Group V10: misaligned, narrow and undefined accesses. -/
theorem test_port_sub2 : look errors (step (given (.regRead 0x006 32) fresh)) = some (0x1000, 5, 0x20006) ∧
    look errors (step (given (.regRead 0x004 16) fresh)) = some (0x1000, 5, 0x20004) ∧
    look errors (step (given (.regRead 0x10004 32) fresh)) = some (0x1000, 5, 0x20004) := by decide +kernel

/-- Group V10: TH written 0x12348000 reads 0xFFFF8000. -/
theorem test_port_width : look (fun t => readPort t)
    (step (given (.regWrite 0x038 32 0x12348000) { fresh with regs.aselArr := 2 })) = some 0xFFFF8000 := by
  decide +kernel

/-- Group V9: LIFSTEP 9, 9 of an unconfigured unit is E_STATE, not E_IDX. -/
theorem test_state_before_idx : look errors (exec (.lifstep 9 9) fresh) = some (0x800, 4, 0x30090009) := by decide

/-- Group V1: an illegal word written to CMD of a fresh unit. -/
theorem test_illcmd : look errors (step (given (.regWrite 0x010 32 0x18000001) fresh)) =
    some (0x400, 3, 0x18000001) := by decide +kernel

/-- Group V10: NOP accepted and not yet complete, STATUS reads 1. -/
theorem test_busy : look (fun t => t.rdata) (step (given (.regRead 0x004 32) (busy 0 fresh))) = some 1 := by
  decide +kernel

/-- `withFetchWord` runs the row's command at the very next step. -/
theorem test_withFetchWord : look (fun t => (t.regs.cmd, t.regs.status.sel))
    (step (State.reset.withFetchWord 32 0x18000000)) = some (0x18000000, .sb1) := by decide

/-- R163 (CFG-T after reset): a RUN placed first is refused, for the unit is not configured. -/
theorem test_withFetchWord_run : look errors (step (State.reset.withFetchWord 32 0x3A000000)) =
    some (0x800, 4, 0x3A000000) := by decide

/-- A unit left alone with nothing to do stays as it is. -/
theorem test_idle : look (fun t => decide (t = fresh)) (step fresh) = some true := by decide +kernel

/-! ### Witnesses: for each statement with hypotheses, concrete values that meet them, at the boundaries -/

/-- The state a step answers. -/
def of (o : Host.Outcome State Fault Refusal) : State :=
  match o with
  | .next s => s
  | .fault _ => State.reset
  | .refused _ => State.reset

/-- P1 after an error and a wrap. -/
def p1Flags : State := { refusedIdx (.sbget .A 0 2) p1 with regs.status.ovf := true }

/-- P1 with the input rows of sample 0 in buffer A. -/
def p1Loaded : State := { p1 with arr.sb0 := [((0, 0), 0x0A), ((1, 0), 0x05)] }

/-- P1 with other potentials, sums, counts, buffers and roles. -/
def p1Other : State :=
  { p1 with
    regs.status.sel := .sb1
    arr.v := [((1, 0), 77)]
    arr.sum := [((0, 1), 5)]
    arr.counts := [((0, 0), 9)]
    arr.sb0 := [((0, 0), 0xAA)] }

/-- P1 with a decay rate of 64, a threshold of 257 and CTRL = 0: the input stays below the threshold. -/
def p1Quiet : State := { p1 with arr.th := [((0, 0), 257)], arr.dk := [((0, 0), 64)] }

/-- P1 with the decay rates of layer 1 at 128. -/
def p1DecayOne : State := { p1 with arr.dk := [((1, 0), 128), ((1, 1), 128)] }

/-- P1 before INIT with one descriptor changed. -/
def p1Bad (l : Nat) (d : LayerDesc) : State := { p1Before with regs.layers := p1Layers.set l d }

/-- The boundary parameter sets of R5 to R8. -/
def leastParams : Params := { tau := 1, timeWindow := 1, maxNeurons := 1, maxLayers := 1, oneSpike := 0 }

/-- The other end of R5 to R8. -/
def greatestParams : Params :=
  { tau := 256, timeWindow := 65536, maxNeurons := 65536, maxLayers := 256, oneSpike := 0xFFFFFFFF }

theorem witness_DecodeEncodeAgree : ∃ i : Instr, i.wf = true := ⟨.evacc 255 65535, by decide⟩

theorem witness_EncodeDecodeAgree : ∃ (w : Word) (i : Instr), decode w = .ok i :=
  ⟨0x17FFFFFF, .sbset .B 65535 255 true, by decide⟩

theorem witness_OpcodeTableIsDecoded : ∃ w : Word, ∃ row ∈ opcodeTable, w &&& row.mask = row.pattern :=
  ⟨0x3A00FFFF, ⟨"RUN", 0x3A000000, 0xFFFF0000⟩, by decide +kernel, by decide⟩

/-- Both causes of R85, the second while FATAL = 1. -/
theorem witness_IllegalWordRefused :
    (fresh.regs.status.busy = false ∧ ∀ row ∈ opcodeTable, (0x05000000 : Word) &&& row.mask ≠ row.pattern) ∧
    ((refusedCfg 1 0 fresh).regs.status.busy = false ∧ (refusedCfg 1 0 fresh).regs.status.fatal = true ∧
      ∀ row ∈ opcodeTable, (0x00000001 : Word) &&& row.mask ≠ row.pattern) := by decide +kernel

theorem witness_StepRunsTheCommand : ∃ (w : Word) (i : Instr), decode w = .ok i :=
  ⟨0x3A000007, .run 7, by decide⟩

/-- A command that is accepted and one that is refused. -/
theorem witness_AcceptThenComplete :
    (p1.regs.status.busy = false ∧ decode 0x31010000 = .ok (.layer 1) ∧ acceptError (.layer 1) p1 = none) ∧
    (fresh.regs.status.busy = false ∧ acceptError (.layer 1) fresh ≠ none) := by decide

theorem witness_ResetRegisterValues : Config.params.Valid ∧ leastParams.Valid ∧ greatestParams.Valid ∧
    p1.regs.status.busy = false ∧ p1.params = Config.params ∧ 3 < Config.params.maxLayers := by decide

theorem witness_ResetsWriteResetValues :
    (refusedCfg 1 0 fresh).regs.status.busy = false ∧ (busy 0 p1).regs.status.busy = true := by decide

/-- An undefined offset, one past the descriptors, a misaligned one, and a narrow access. -/
theorem witness_UndefinedOffsetRefused : ¬DefinedOffset fresh.params 0x03C ∧ ¬DefinedOffset fresh.params 0x180 ∧
    ¬DefinedOffset fresh.params 0x006 ∧ (16 : Nat) ≠ 32 := by decide

theorem witness_BusyRefuses : (busy 0 p1).regs.status.busy = true ∧ DefinedOffset p1.params 0x010 ∧
    DefinedOffset p1.params 0x17C ∧ DefinedOffset p1.params 0x000 := by decide

theorem witness_ProtectedRegistersRefused : p1.regs.status.busy = false ∧ p1.regs.status.configured = true ∧
    (0x100 ≤ 0x17C ∧ 0x17C < 0x100 + 0x20 * p1.params.maxLayers ∧ 0x17C % 4 = 0) := by decide

/-- ARR = 8; ARR = 4 with AIDX = MAX_NEURONS; ARR = 5 at its last index; another selection; a busy unit. -/
theorem witness_ArrayPort :
    (busy 0 fresh).regs.status.busy = true ∧ fresh.regs.status.busy = false ∧
    8 ≤ (pointed 8 0 0 fresh).regs.aselArr.toNat ∧
    ((pointed 4 0 16 fresh).regs.aselArr.toNat < 8 ∧ ¬PortSelects (pointed 4 0 16 fresh)) ∧
    ((pointed 0 4 0 fresh).regs.aselArr.toNat < 8 ∧ ¬PortSelects (pointed 0 4 0 fresh)) ∧
    PortSelects (pointed 5 0 31 fresh) ∧ PortSelects (pointed 7 0 3 fresh) ∧
    ¬((7 : BitVec 4) = 5 ∧ (0 : Byte) = 0 ∧ (3 : Word) = 31) := by decide +kernel

/-- A register that is never locked, on a configured unit; CTRL and the last descriptor register otherwise. -/
theorem witness_RegisterReadsBack :
    (p1.regs.status.busy = false ∧ p1.regs.layers.length = p1.params.maxLayers ∧
      (0x034, 0xFFFFFFFF) ∈ ([(0x01C, 0xFFFFFFFF), (0x020, 0xFFFFFFFF), (0x030, 0xFF0F), (0x034, 0xFFFFFFFF)] :
        List (Nat × Word))) ∧
    (fresh.regs.status.busy = false ∧ fresh.regs.layers.length = fresh.params.maxLayers ∧
      fresh.regs.status.configured = false ∧ 3 < fresh.params.maxLayers ∧ 0x17C = 0x100 + 0x20 * 3 + 0x1C) := by
  decide +kernel

/-- The least and the last descriptor, the extreme parameter sets. -/
theorem witness_RegistersReadTheirFields : p1.regs.status.busy = false ∧ p1.params.Valid ∧ 0 < p1.params.maxLayers ∧
    3 < p1.params.maxLayers ∧ leastParams.Valid ∧ greatestParams.Valid := by decide

/-- SRST in FATAL on an idle unit; SRST completing at a `complete` and with no input left; an SRST written while
BUSY = 1, which does not take effect; a NOP while every kind of flag stands. -/
theorem witness_ErrorsAreSticky :
    SoftResets (given (.command 0x01000000) (refusedCfg 1 0 fresh)) ∧
    SoftResets (given .complete (busy 0x01000000 p1Flags)) ∧ SoftResets (busy 0x01000000 p1Flags) ∧
    ¬SoftResets (given (.command 0x01000000) (busy 0x01000000 p1Flags)) ∧
    ∃ s t : State, step s = .next t ∧ (∀ a, s.inputs.head? ≠ some (.hwReset a)) ∧ ¬SoftResets s ∧
      s.regs.errcode ≠ 0 ∧ errFlag .idx s.regs.status = true ∧ s.regs.status.ovf = true :=
  ⟨by decide, by decide, by decide, by decide,
    given (.command 0) p1Flags, of (exec .nop p1Flags), rfl, fun a => by simp [given], by decide, by decide⟩

theorem witness_StateRefused :
    ((refusedCfg 1 0 fresh).regs.status.busy = false ∧ (refusedCfg 1 0 fresh).regs.status.fatal = true) ∧
    (p1.regs.status.busy = false ∧ p1.regs.status.configured = true) ∧
    (fresh.regs.status.busy = false ∧ fresh.regs.status.configured = false) := by decide

/-- Each range at its first value outside. -/
theorem witness_OutOfRangeRefused : Idle fresh ∧ fresh.params.tau ≤ 2 ∧ fresh.params.maxNeurons ≤ 16 ∧ Ready p1 ∧
    p1.params.nChunks ≤ 2 ∧ p1.nLayers ≤ 2 ∧ p1.params.tau ≤ 2 ∧ p1.nIn 1 ≤ 4 ∧ p2.nIn 1 ≤ 16 ∧ Ready p2 := by decide

/-- Group V4: SRC_BASE = 0xFFFFFFFC, sample 1. -/
theorem witness_SourceRefused :
    (Ready { p1 with regs.srcBase := 0xFFFFFFFC } ∧ 0 < p1.params.nChunks ∧
      2 ^ 32 ≤ 0xFFFFFFFC + (1 * p1.params.timeWindow + (0 * p1.params.tau + p1.params.tau - 1)) *
        ((p1.neurons 0 + 7) / 8) + (p1.neurons 0 - 1) / 8) ∧
    2 ^ 32 ≤ 0xFFFFFFFC + (1 * p1.params.timeWindow + p1.params.timeWindow - 1) * ((p1.neurons 0 + 7) / 8) +
      (p1.neurons 0 + 7) / 8 - 1 := by decide +kernel

/-- Sub 1 on both sides of its range. -/
theorem witness_BadConfigurationRefused_counts : Idle fresh ∧ fresh.regs.status.configured = false ∧
    fresh.nLayers = 0 ∧ Idle { p1Before with regs.nlayers := 5 } ∧
    p1Before.params.maxLayers < State.nLayers { p1Before with regs.nlayers := 5 } := by decide

/-- Sub 2 of layer 0 is the first check of its layer. -/
theorem witness_BadConfigurationRefused_kind : Idle (p1Bad 0 { LayerDesc.zero with kind := 3 }) ∧
    (p1Bad 0 { LayerDesc.zero with kind := 3 }).regs.status.configured = false ∧
    1 ≤ (p1Bad 0 { LayerDesc.zero with kind := 3 }).nLayers ∧
    (p1Bad 0 { LayerDesc.zero with kind := 3 }).nLayers ≤ 4 ∧
    FirstCfgFailure (p1Bad 0 { LayerDesc.zero with kind := 3 }) 2 0 := by
  refine ⟨by decide, by decide, by decide, by decide, by decide, ?_, ?_, fun l h => absurd h (Nat.not_lt_zero l)⟩
  · show ((p1Bad 0 { LayerDesc.zero with kind := 3 }).desc 0).kind = 3
    decide
  · intro sub h
    have : sub = 0 ∨ sub = 1 := by omega
    rcases this with rfl | rfl <;> exact fun f => f

/-- A layer 1 whose bias table passes the end of TMEM. -/
def p1TablesEnd : State :=
  p1Bad 1 { LayerDesc.zero with kind := 2, neur := 2, wbase := 0x1000, bbase := 0xFFFFFFFF }

/-- Sub 7 of layer 1 is the last check of all. -/
theorem witness_BadConfigurationRefused_tables : Idle p1TablesEnd ∧ p1TablesEnd.regs.status.configured = false ∧
    1 ≤ p1TablesEnd.nLayers ∧ p1TablesEnd.nLayers ≤ p1TablesEnd.params.maxLayers ∧
    FirstCfgFailure p1TablesEnd 7 1 := by
  refine ⟨by decide, by decide, by decide, by decide, by decide, ?_, ?_, ?_⟩
  · simp only [CfgCheckFails]; decide
  · intro sub h
    match sub with
    | 0 | 1 => exact fun f => f
    | 2 | 3 | 4 | 5 | 6 => simp only [CfgCheckFails]; decide
    | n + 7 => omega
  · intro l h sub
    obtain rfl : l = 0 := by omega
    match sub with
    | 0 | 1 => exact fun f => f
    | 2 | 3 | 4 | 5 | 6 | 7 => simp only [CfgCheckFails]; decide
    | n + 8 => exact fun f => f

theorem witness_NopChangesOnlyCmd : (p1.regs.status.busy = false ∧ p1.regs.status.fatal = false) ∧
    ((refusedCfg 1 0 fresh).regs.status.busy = false ∧ (refusedCfg 1 0 fresh).regs.status.fatal = true) := by decide

theorem witness_InitBroadcastsAndConfigures : Idle p1Before ∧ p1Before.regs.status.configured = false ∧
    1 ≤ p1Before.nLayers ∧ p1Before.nLayers ≤ p1Before.params.maxLayers ∧
    ∀ l < p1Before.nLayers, ∀ sub, ¬CfgCheckFails p1Before sub l := by
  refine ⟨by decide, by decide, by decide, by decide, fun l h sub => ?_⟩
  have hl : l = 0 ∨ l = 1 := by
    have : p1Before.nLayers = 2 := by decide
    omega
  match sub with
  | 0 | 1 => exact fun f => f
  | 2 | 3 | 4 | 5 | 6 | 7 => rcases hl with rfl | rfl <;> simp only [CfgCheckFails] <;> decide
  | n + 8 => exact fun f => f

theorem witness_ClearCommands : Idle fresh ∧ Idle p1 := by decide

/-- A NaN, an infinity and a finite value. -/
theorem witness_QuantClampsAndRounds : Idle { fresh with regs.codecIn := 0x7F800001 } ∧
    (BitVec.extractLsb' 23 8 (0x7F800001 : Word)).toNat = 255 ∧ BitVec.extractLsb' 0 23 (0x7F800001 : Word) ≠ 0 ∧
    (BitVec.extractLsb' 23 8 (0xFF800000 : Word)).toNat = 255 ∧ BitVec.extractLsb' 0 23 (0xFF800000 : Word) = 0 ∧
    (BitVec.extractLsb' 23 8 (0x7F7FFFFF : Word)).toNat ≠ 255 := by decide

theorem witness_DequantIsCodeOver128 : Idle { fresh with regs.codecIn := 0x80 } ∧
    BitVec.toInt (BitVec.extractLsb' 0 8 (0x80 : Word)) = -128 ∧ 2 ^ 7 ≤ (-128 : Int).natAbs ∧
    (-128 : Int).natAbs < 2 ^ (7 + 1) := by decide

/-- The value -1, the lower bound of the range of R105. -/
theorem witness_CodecRoundTrip : Idle { fresh with regs.codecIn := 0xBF800000 } ∧
    (BitVec.extractLsb' 23 8 (0xBF800000 : Word)).toNat ≠ 255 ∧ -1 ≤ floatRat 0xBF800000 ∧
    floatRat 0xBF800000 ≤ 127 / 128 := by
  have h : floatRat 0xBF800000 = -1 := by
    have h1 : BitVec.getLsbD (0xBF800000 : Word) 31 = true := by decide
    have h2 : (BitVec.extractLsb' 23 8 (0xBF800000 : Word)).toNat = 127 := by decide
    have h3 : (BitVec.extractLsb' 0 23 (0xBF800000 : Word)).toNat = 0 := by decide
    unfold floatRat
    rw [h1, h2, h3]
    norm_num
  rw [h]
  exact ⟨by decide, by decide, by norm_num, by norm_num⟩

theorem witness_SbgetReadsItsBit : Idle fresh ∧ 1 < fresh.params.tau ∧ 15 < fresh.params.maxNeurons := by decide

theorem witness_SbsetWritesItsBitOnly : Idle p1Other ∧ 1 < p1Other.params.tau ∧ 15 < p1Other.params.maxNeurons := by
  decide

theorem witness_SwapTogglesTheRoles : Idle fresh ∧ Idle p1Other := by decide

/-- The last chunk, read up to the last address of TMEM (group V4). -/
theorem witness_LoadchCopiesSourceBits : Ready { p1 with regs.srcBase := 0xFFFFFFFC } ∧ 1 < p1.params.nChunks ∧
    0xFFFFFFFC + (0 * p1.params.timeWindow + (1 * p1.params.tau + p1.params.tau - 1)) * ((p1.neurons 0 + 7) / 8) +
      (p1.neurons 0 - 1) / 8 < 2 ^ 32 := by decide +kernel

theorem witness_VscaleMultipliesByDecay : Ready p1 ∧ 1 < p1.nLayers := by decide
theorem witness_VaddAddsTheSums : Ready p1 ∧ 1 < p1.nLayers := by decide
theorem witness_VcmpComparesWithThreshold : Ready p1 ∧ 1 < p1.nLayers := by decide
theorem witness_VsubtSubtractsWhereFired : Ready p1 ∧ 1 < p1.nLayers := by decide
theorem witness_VpackPacksTheFlags : Ready p1 ∧ 1 < p1.nLayers ∧ 1 < p1.params.tau := by decide

/-- Each of the three kinds. -/
theorem witness_VbiasSetsTheBiases : Ready p1 ∧ 1 < p1.nLayers ∧ (p1.desc 0).kind = 0 ∧ (p1.desc 1).kind = 2 ∧
    Ready p2 ∧ 1 < p2.nLayers ∧ (p2.desc 1).kind = 1 ∧ p2.kSide 1 ≤ p2.inSide 1 ∧ 3 < p2.neurons 1 := by decide

theorem witness_EvaccInput : Ready p1 ∧ 0 < p1.nLayers ∧ 3 < p1.nIn 0 ∧ (p1.desc 0).kind = 0 := by decide

theorem witness_EvaccFullyConnected : Ready p1 ∧ 1 < p1.nLayers ∧ 3 < p1.nIn 1 ∧ (p1.desc 1).kind = 2 := by decide

theorem witness_EvaccConv : Ready p2 ∧ 1 < p2.nLayers ∧ 15 < p2.nIn 1 ∧ (p2.desc 1).kind = 1 ∧ p2.inSide 1 = 4 ∧
    p2.kSide 1 = 3 ∧ 3 ≤ 4 ∧ 2 = 4 - 3 + 1 ∧ 3 = 15 / 4 ∧ 3 = 15 % 4 := by decide

/-- An Input layer and a FullyConnected layer, the last timestep. -/
theorem witness_AccumDirect : Ready p1Loaded ∧ 1 < p1Loaded.nLayers ∧ 1 < p1Loaded.params.tau ∧
    (p1Loaded.desc 0).kind = 0 ∧ (p1Loaded.desc 1).kind = 2 := by decide

theorem witness_AccumConvDense : Ready p2 ∧ 1 < p2.nLayers ∧ 1 < p2.params.tau ∧ (p2.desc 1).kind = 1 ∧
    p2.inSide 1 = 4 ∧ p2.kSide 1 = 3 ∧ 3 ≤ 4 ∧ 2 = 4 - 3 + 1 ∧ 4 * 4 = p2.nIn 1 ∧
    p2.filters 1 * 2 ^ 2 = p2.neurons 1 := by decide

theorem witness_LifstepUpdatesEachNeuron : Ready p1Loaded ∧ 1 < p1Loaded.nLayers ∧ 1 < p1Loaded.params.tau := by decide
theorem witness_LifstepSequence : Ready p1Loaded ∧ 0 < p1Loaded.nLayers ∧ 0 < p1Loaded.params.tau := by decide
theorem witness_LayerSequence : Ready p1Loaded ∧ 1 < p1Loaded.nLayers := by decide

theorem witness_NonLeakyEqualsDecayOne : Ready p1DecayOne ∧ 1 < p1DecayOne.nLayers ∧ 1 < p1DecayOne.params.tau ∧
    TableWf p1DecayOne.arr.v ∧ ∀ i < p1DecayOne.neurons 1, p1DecayOne.dkAt 1 i = 128 := by decide +kernel

theorem witness_InputPassthrough : Ready p1Loaded ∧ 0 < p1Loaded.nLayers ∧ (p1Loaded.desc 0).kind = 0 ∧
    3 < p1Loaded.neurons 0 ∧ p1Loaded.vAt 0 3 = 0 ∧
    (p1Loaded.thAt 0 3).toInt = p1Loaded.params.oneSpike.toInt ∧ 0 < p1Loaded.params.oneSpike.toInt := by decide

/-- Decay 64, input 128, threshold 257: 128 * 128 is just below 64 * 257. -/
theorem witness_SubThresholdNeverFires : Ready p1Quiet ∧ 0 < p1Quiet.nLayers ∧ (p1Quiet.desc 0).kind = 0 ∧
    p1Quiet.regs.ifMode = false ∧ 0 < p1Quiet.neurons 0 ∧ p1Quiet.vAt 0 0 = 0 ∧ 64 = (p1Quiet.dkAt 0 0).toInt ∧
    128 = p1Quiet.params.oneSpike.toInt ∧ 257 = (p1Quiet.thAt 0 0).toInt ∧
    (128 : Int) * 128 < (128 - 64) * 257 := by decide

theorem witness_CountCountsSetBits : Ready p1Loaded ∧ 1 < p1Loaded.params.nChunks ∧ 1 = p1Loaded.nLayers - 1 := by decide

/-- A table with a winner, and one in which no neuron fired. -/
theorem witness_ClassifyIsLeastArgmax : Ready p1Other ∧ 1 = p1Other.nLayers - 1 ∧ 0 < p1Other.neurons 1 ∧
    0 < (p1Other.countAt 0 0).toNat + (p1Other.countAt 0 1).toNat ∧ Ready p1 ∧
    (p1.countAt 0 0).toNat + (p1.countAt 0 1).toNat = 0 ∧ (p1.countAt 1 0).toNat + (p1.countAt 1 1).toNat = 0 := by
  decide

/-- The last source address of TMEM (group V4). -/
theorem witness_RunSequence : Ready { p1 with regs.srcBase := 0xFFFFFFFC } ∧ p1.params.Valid ∧
    0xFFFFFFFC + (0 * p1.params.timeWindow + p1.params.timeWindow - 1) * ((p1.neurons 0 + 7) / 8) +
      (p1.neurons 0 + 7) / 8 - 1 < 2 ^ 32 := by decide +kernel

theorem witness_RunFrame : Ready p1 ∧
    p1.regs.srcBase.toNat + (1 * p1.params.timeWindow + p1.params.timeWindow - 1) * ((p1.neurons 0 + 7) / 8) +
      (p1.neurons 0 + 7) / 8 - 1 < 2 ^ 32 := by decide +kernel

theorem witness_RunDeterminism : Ready p1 ∧ Ready p1Other ∧ p1.params.Valid ∧ p1Other.params = p1.params ∧
    p1Other.regs.nlayers = p1.regs.nlayers ∧ p1Other.regs.layers = p1.regs.layers ∧
    p1Other.regs.ifMode = p1.regs.ifMode ∧ p1Other.regs.srcBase = p1.regs.srcBase ∧ p1Other.arr.th = p1.arr.th ∧
    p1Other.arr.dk = p1.arr.dk ∧ p1Other.tmem = p1.tmem ∧ cfgError p1 = none := by decide +kernel

theorem witness_InvAtReset : Config.params.Valid ∧ ArraysWf p1Other.arr ∧ Memory.wf p1Mem ∧
    ArraysInRange Config.params p1Other.arr := by decide +kernel

/-- An idle configured unit, a busy one with a TMEM byte in flight, and one with inputs to come. -/
theorem witness_StepKeepsInv : Inv p1Flags ∧
    Inv { busy 0x3A000000 p1 with stale := [(0x1000, 7)] } ∧
    Inv (given .complete (given (.tmemWrite 0x1000 9) (busy 0x3A000000 p1))) :=
  ⟨by decide +kernel, by decide +kernel, by decide +kernel⟩

theorem witness_ArraysStayInRange : Inv (given (.command 0x3A000000) p1Other) ∧
    InRange (given (.command 0x3A000000) p1Other) := ⟨by decide +kernel, by decide +kernel⟩

theorem witness_TopologyFixed : ∃ s t : State, step s = .next t ∧ s.regs.status.configured = true ∧
    t.regs.status.configured = true :=
  ⟨given (.regWrite 0x018 32 3) p1, of (step (given (.regWrite 0x018 32 3) p1)), rfl, by decide, by decide +kernel⟩

/-- A platform store, and a step without one. -/
theorem witness_TmemIsReadOnly :
    (∃ s t : State, step s = .next t ∧ s.inputs.head? = some (.tmemWrite 0x1000 9)) ∧
    ∃ s t : State, step s = .next t ∧ ∀ a b, s.inputs.head? ≠ some (.tmemWrite a b) :=
  ⟨⟨given (.tmemWrite 0x1000 9) p1, _, rfl, rfl⟩, ⟨given (.command 0) p1, of (exec .nop p1), rfl, by simp [given]⟩⟩

/-- An accepted command, a refused read while BUSY = 1, and a byte that has not been replaced while another has. -/
theorem witness_ChangedByteReadsOldOrNew :
    (∃ s t : State, step s = .next t ∧ (∀ a b, s.inputs.head? ≠ some (.tmemWrite a b)) ∧
      s.regs.status.busy = false ∧ t.regs.status.busy = true) ∧
    (∃ s t : State, step s = .next t ∧ (∀ a b, s.inputs.head? ≠ some (.tmemWrite a b)) ∧
      s.regs.status.busy = true ∧ t.regs.status.busy = true) ∧
    ∀ b : Byte, (0x1001, b) ∉ State.stale { busy 0x3A000000 p1 with stale := [(0x1000, 7)] } :=
  ⟨⟨given (.regWrite 0x010 32 0) p1, of (step (given (.regWrite 0x010 32 0) p1)), rfl, by simp [given], by decide,
      by decide +kernel⟩,
    ⟨given (.regRead 0x02C 32) (busy 0 p1), of (step (given (.regRead 0x02C 32) (busy 0 p1))), rfl, by simp [given],
      by decide, by decide +kernel⟩,
    by decide +kernel⟩

end Sys2Proof.Tests
end

section
/-! The register map (spec/10_state.md R58) as one equivalence, and the checks of a transaction (R21): what each
makes of a read and of a write. -/

namespace Sys2Proof.Machine

/-! ### The register map -/

/-- The word index of a descriptor register (R39 to R46). -/
def DescField.index (f : DescField) : Nat :=
  match f with
  | .lkind => 0
  | .lneur => 1
  | .lthr => 2
  | .ldecay => 3
  | .lwbase => 4
  | .lbbase => 5
  | .lgeom => 6
  | .lfilt => 7

theorem descFieldAt_index (f : DescField) : descFieldAt f.index = f := by cases f <;> rfl

theorem index_lt (f : DescField) : f.index < 8 := by cases f <;> decide

theorem index_descFieldAt {k : Nat} (h : k < 8) : (descFieldAt k).index = k := by
  interval_cases k <;> rfl

/-- The offset of a register (R58). -/
def Reg.offset (r : Reg) : Nat :=
  match r with
  | .id => 0x000
  | .status => 0x004
  | .errcode => 0x008
  | .errinfo => 0x00C
  | .cmd => 0x010
  | .ctrl => 0x014
  | .nlayers => 0x018
  | .srcBase => 0x01C
  | .codecIn => 0x020
  | .codecOut => 0x024
  | .bitres => 0x028
  | .result => 0x02C
  | .asel => 0x030
  | .aidx => 0x034
  | .adata => 0x038
  | .param0 => 0x040
  | .param1 => 0x044
  | .param2 => 0x048
  | .desc l f => 0x100 + 0x20 * l + 4 * f.index

/-- The unit has the register: every one but the descriptors past MAX_LAYERS (R38). -/
def Reg.Present (maxLayers : Nat) (r : Reg) : Prop := ∀ l f, r = .desc l f → l < maxLayers

theorem offset_mod_four (r : Reg) : r.offset % 4 = 0 := by
  cases r with
  | desc l f => simp only [Reg.offset]; omega
  | _ => rfl

/-- From 0x100 on the map holds descriptors only. -/
theorem regAt_desc {m off : Nat} (h : 0x100 ≤ off) :
    regAt m off =
      if off < 0x100 + 0x20 * m ∧ off % 4 = 0 then
        some (.desc ((off - 0x100) / 0x20) (descFieldAt ((off - 0x100) % 0x20 / 4)))
      else none := by
  unfold regAt
  split
  case h_19 => simp only [h, true_and]
  all_goals omega

/-- The register map of R58 holds each register at its offset, and nothing else. -/
theorem regAt_eq_some {m off : Nat} {r : Reg} : regAt m off = some r ↔ off = r.offset ∧ r.Present m := by
  constructor
  · intro h
    by_cases hd : 0x100 ≤ off
    · rw [regAt_desc hd] at h
      split at h
      · next hb =>
        obtain rfl := Option.some.inj h
        refine ⟨?_, fun l f e => ?_⟩
        · simp only [Reg.offset]
          rw [index_descFieldAt (by omega)]
          omega
        · obtain ⟨rfl, -⟩ := Reg.desc.inj e
          omega
      · cases h
    · unfold regAt at h
      split at h
      case h_19 => rw [if_neg (fun hc => hd hc.1)] at h; cases h
      all_goals
        obtain rfl := Option.some.inj h
        exact ⟨rfl, fun _ _ e => by cases e⟩
  · rintro ⟨rfl, hp⟩
    cases r with
    | desc l f =>
      have hl := hp l f rfl
      have hf := index_lt f
      simp only [Reg.offset]
      rw [regAt_desc (by omega), if_pos (by omega)]
      have h1 : (0x100 + 0x20 * l + 4 * f.index - 0x100) / 0x20 = l := by omega
      have h2 : (0x100 + 0x20 * l + 4 * f.index - 0x100) % 0x20 / 4 = f.index := by omega
      rw [h1, h2, descFieldAt_index]
    | _ => rfl

/-- Every offset of the descriptors' range is a register of a layer (R38). -/
theorem exists_desc_of_range {m off : Nat} (h : 0x100 ≤ off ∧ off < 0x100 + 0x20 * m ∧ off % 4 = 0) :
    ∃ l < m, ∃ f, off = (Reg.desc l f).offset := by
  obtain ⟨hoff, hp⟩ := regAt_eq_some.1 ((regAt_desc h.1).trans (if_pos h.2))
  exact ⟨_, hp _ _ rfl, _, hoff⟩

theorem definedOffset_offset {p : Params} {r : Reg} (h : r.Present p.maxLayers) : DefinedOffset p r.offset := by
  cases r with
  | desc l f =>
    have hl := h l f rfl
    have hf := index_lt f
    simp only [Reg.offset]
    exact .inr (by omega)
  | _ => exact .inl (by simp [Reg.offset])

/-! ### The checks of a transaction -/

theorem step_regRead (off width : Nat) (s : State) :
    step (given (.regRead off width) s) = .next (hostRead off width s) := rfl

theorem step_regWrite (off width : Nat) (v : Word) (s : State) :
    step (given (.regWrite off width v) s) = .next (hostWrite off width v s) := rfl

/-- A read that passes the checks answers the register. -/
theorem hostRead_of_ok {off width : Nat} {s : State} {r : Reg} (h : portCheck false off width s = .ok r) :
    hostRead off width s = { s with rdata := readReg r s } := by simp only [hostRead, h]

/-- A transaction that fails a check raises E_ACCESS with the check's sub-cause (R176). -/
theorem hostRead_of_error {off width sub : Nat} {s : State} (h : portCheck false off width s = .error sub) :
    hostRead off width s = { refusedAccess sub off s with rdata := 0 } := by
  simp only [hostRead, h]
  rfl

theorem hostWrite_of_ok {off width : Nat} {v : Word} {s : State} {r : Reg}
    (h : portCheck true off width s = .ok r) : hostWrite off width v s = writeReg r v s := by
  simp only [hostWrite, h]

theorem hostWrite_of_error {off width sub : Nat} {v : Word} {s : State}
    (h : portCheck true off width s = .error sub) : hostWrite off width v s = refusedAccess sub off s := by
  simp only [hostWrite, h]
  rfl

/-- Check 1 of R21. -/
theorem portCheck_undefined {isWrite : Bool} {off width : Nat} {s : State}
    (h : ¬DefinedOffset s.params off ∨ width ≠ 32) : portCheck isWrite off width s = .error 2 := by
  unfold portCheck
  split
  · next hok =>
    have hnone : regAt s.params.maxLayers off = none := by
      rw [Option.eq_none_iff_forall_ne_some]
      intro r hr
      obtain ⟨rfl, hp⟩ := regAt_eq_some.1 hr
      exact h.elim (fun hd => hd (definedOffset_offset hp)) (fun hw => hw hok.2)
    rw [hnone]
  · rfl

section Present

variable {isWrite : Bool} {r : Reg} {s : State} (hp : r.Present s.params.maxLayers)
include hp

/-- Past check 1, the checks on the register decide. -/
theorem portCheck_offset_ok (h : regError isWrite r s = none) : portCheck isWrite r.offset 32 s = .ok r :=
  portCheck_eq_ok.2 ⟨offset_mod_four r, rfl, regAt_eq_some.2 ⟨rfl, hp⟩, h⟩

theorem portCheck_offset_error {sub : Nat} (h : regError isWrite r s = some sub) :
    portCheck isWrite r.offset 32 s = .error sub := by
  simp only [portCheck, offset_mod_four, and_self, if_true, regAt_eq_some.2 ⟨rfl, hp⟩, h]

end Present

theorem present_of_ne_desc {r : Reg} {m : Nat} (h : ∀ l f, r ≠ .desc l f) : r.Present m :=
  fun l f e => absurd e (h l f)

theorem present_desc {l m : Nat} (f : DescField) (h : l < m) : (Reg.desc l f).Present m := by
  rintro l' f' ⟨⟩
  exact h

theorem present_of_readOnly {r : Reg} (m : Nat) (h : regReadOnly r = true) : r.Present m := by
  rintro l f rfl
  cases h

theorem regReadOnly_of_regLocked {r : Reg} (h : regLocked r = true) : regReadOnly r = false := by
  cases r with
  | ctrl | nlayers | desc l f => rfl
  | _ => cases h

theorem portError_eq_none {r : Reg} (h : r ≠ .adata) (s : State) : portError r s = none := if_neg h

/-- Check 2 lets STATUS be read in every state. -/
theorem regError_read_status (s : State) : regError false .status s = none := by
  simp [regError, regReadableBusy, portError]

/-- Check 2 refuses every access to ADATA while BUSY = 1. -/
theorem regError_adata_busy {s : State} (h : s.regs.status.busy = true) (isWrite : Bool) :
    regError isWrite .adata s = some 1 := by
  simp [regError, regReadableBusy, h]

section Idle

variable {s : State} (hb : s.regs.status.busy = false)
include hb

theorem regError_read {r : Reg} : regError false r s = portError r s := by simp [regError, hb]

/-- Check 3. -/
theorem regError_write_readOnly {r : Reg} (h : regReadOnly r = true) : regError true r s = some 3 := by
  simp [regError, hb, h]

/-- Check 4. -/
theorem regError_write_locked {r : Reg} (h : regLocked r = true) (hc : s.regs.status.configured = true) :
    regError true r s = some 4 := by
  simp [regError, hb, h, hc, regReadOnly_of_regLocked h]

theorem regError_write {r : Reg} (hro : regReadOnly r = false)
    (hl : regLocked r = true → s.regs.status.configured = false) : regError true r s = portError r s := by
  have h4 : ¬(regLocked r = true ∧ s.regs.status.configured = true) := fun ⟨h, hc⟩ => by simp [hl h] at hc
  simp [regError, hb, hro, h4]

/-- While BUSY = 0 a read of any register but ADATA answers it and changes nothing (R21). -/
theorem hostRead_offset {r : Reg} (hp : r.Present s.params.maxLayers) (hr : r ≠ .adata) :
    hostRead r.offset 32 s = { s with rdata := readReg r s } :=
  hostRead_of_ok (portCheck_offset_ok hp ((regError_read hb).trans (portError_eq_none hr s)))

/-- While BUSY = 0 a write to any register but ADATA that is neither read-only nor locked takes effect (R21). -/
theorem hostWrite_offset {r : Reg} (hp : r.Present s.params.maxLayers) (hro : regReadOnly r = false)
    (hl : regLocked r = true → s.regs.status.configured = false) (hr : r ≠ .adata) (v : Word) :
    hostWrite r.offset 32 v s = writeReg r v s :=
  hostWrite_of_ok (portCheck_offset_ok hp ((regError_write hb hro hl).trans (portError_eq_none hr s)))

end Idle

/-- A refused transaction fails check 1, or a check on its register. -/
theorem portCheck_error_cases {isWrite : Bool} {off width sub : Nat} {s : State}
    (h : portCheck isWrite off width s = .error sub) : sub = 2 ∨ ∃ r, regError isWrite r s = some sub := by
  unfold portCheck at h
  split at h
  · split at h
    · exact .inl (Except.error.inj h).symm
    · next r _ =>
      split at h
      · next he => exact .inr ⟨r, Except.error.inj h ▸ he⟩
      · cases h
  · exact .inl (Except.error.inj h).symm

/-- A read fails no check but 1, 2 and 5: 3 and 4 are those of writes (R21). -/
theorem regError_read_cases {r : Reg} {s : State} {sub : Nat} (h : regError false r s = some sub) :
    sub = 1 ∨ portError r s = some sub := by
  unfold regError at h
  split at h
  · exact .inl (Option.some.inj h).symm
  · exact .inr (by simpa using h)

/-! ### Accesses the checks refuse -/

/-- Settles O10: check 1 of R21 comes before every other. -/
theorem undefinedOffsetRefused : Obligations.UndefinedOffsetRefused := by
  intro s off width v h
  rw [step_regRead, step_regWrite, hostRead_of_error (portCheck_undefined h),
    hostWrite_of_error (portCheck_undefined h)]
  exact ⟨rfl, rfl⟩

/-- The read-only offsets of R176 are those of read-only registers. -/
theorem readOnly_offsets : ∀ off ∈ [0x000, 0x004, 0x008, 0x00C, 0x024, 0x028, 0x02C, 0x040, 0x044, 0x048],
    ∃ r ∈ [Reg.id, .status, .errcode, .errinfo, .codecOut, .bitres, .result, .param0, .param1, .param2],
      off = r.offset ∧ regReadOnly r = true := by decide

/-- The offsets R47 locks are those of the locked registers. -/
theorem exists_locked_of_offset {m off : Nat}
    (h : off = 0x014 ∨ off = 0x018 ∨ (0x100 ≤ off ∧ off < 0x100 + 0x20 * m ∧ off % 4 = 0)) :
    ∃ r : Reg, off = r.offset ∧ r.Present m ∧ regLocked r = true := by
  obtain rfl | rfl | h := h
  · exact ⟨.ctrl, rfl, present_of_ne_desc nofun, rfl⟩
  · exact ⟨.nlayers, rfl, present_of_ne_desc nofun, rfl⟩
  · obtain ⟨l, hl, f, hoff⟩ := exists_desc_of_range h
    exact ⟨.desc l f, hoff, present_desc f hl, rfl⟩

/-- Settles O12: checks 3 and 4 of R21 on the registers those offsets hold. -/
theorem protectedRegistersRefused : Obligations.ProtectedRegistersRefused := by
  intro s v hb
  refine ⟨fun off hoff => ?_, fun hc off hoff => ?_⟩
  · obtain ⟨r, -, rfl, hro⟩ := readOnly_offsets off hoff
    rw [step_regWrite, hostWrite_of_error
      (portCheck_offset_error (present_of_readOnly _ hro) (regError_write_readOnly hb hro))]
  · obtain ⟨r, rfl, hp, hl⟩ := exists_locked_of_offset hoff
    rw [step_regWrite, hostWrite_of_error (portCheck_offset_error hp (regError_write_locked hb hl hc))]

end Sys2Proof.Machine
end

section
/-! The array port (spec/10_state.md R34 to R36): what a selection names, and that no other selection names it. -/

namespace Sys2Proof.Machine

/-- The element that ARR = `a`, LAYER = `l` and AIDX = `x` name (R34). -/
def portElement (p : Params) (a l x : Nat) : Element :=
  match a with
  | 0 => .v l x
  | 1 => .rf l x
  | 2 => .th l x
  | 3 => .dk l x
  | 4 => .sum x
  | 5 => .counts (x / p.nChunks) (x % p.nChunks)
  | 6 => .sb .sb0 (x / p.rowBytes) (x % p.rowBytes)
  | _ => .sb .sb1 (x / p.rowBytes) (x % p.rowBytes)

/-- The element ASEL and AIDX name, whether or not it exists. -/
def State.pointedElement (s : State) : Element :=
  portElement s.params s.regs.aselArr.toNat s.regs.aselLayer.toNat s.regs.aidx.toNat

/-- ARR, LAYER and AIDX that name an element. -/
def Element.selection (p : Params) (e : Element) : Nat × Nat × Nat :=
  match e with
  | .v l i => (0, l, i)
  | .rf l i => (1, l, i)
  | .th l i => (2, l, i)
  | .dk l i => (3, l, i)
  | .sum i => (4, 0, i)
  | .counts i c => (5, 0, p.nChunks * i + c)
  | .sb .sb0 t b => (6, 0, p.rowBytes * t + b)
  | .sb .sb1 t b => (7, 0, p.rowBytes * t + b)

/-- An array with no layers is selected with LAYER = 0, so an element has one selection (R34). -/
theorem selection_portElement {p : Params} {a l : Nat} (x : Nat) (ha : a < 8) (hl : 4 ≤ a → l = 0) :
    (portElement p a l x).selection p = (a, l, x) := by
  by_cases h4 : 4 ≤ a
  · obtain rfl := hl h4
    interval_cases a <;> simp [portElement, Element.selection, Nat.div_add_mod]
  · interval_cases a <;> rfl

theorem selection_pointedElement {s : State} (h : PortSelects s) :
    s.pointedElement.selection s.params = (s.regs.aselArr.toNat, s.regs.aselLayer.toNat, s.regs.aidx.toNat) :=
  selection_portElement _ h.1 fun ha => by rw [h.2.2.2 ha]; rfl

/-- The three outcomes of a selection, sub-cause 5 before 6 (R36). -/
theorem portSelect_eq (s : State) :
    portSelect s =
      if 8 ≤ s.regs.aselArr.toNat then .error 5
      else if PortSelects s then .ok s.pointedElement else .error 6 := by
  have hl : s.regs.aselLayer = 0 ↔ s.regs.aselLayer.toNat = 0 := BitVec.toNat_inj.symm
  simp only [portSelect, PortSelects, State.pointedElement, portBound, hl]
  generalize s.regs.aselArr.toNat = a
  by_cases ha : 8 ≤ a
  · obtain ⟨k, rfl⟩ := Nat.exists_eq_add_of_le' ha
    rw [if_pos ha]
    rfl
  · interval_cases a <;> simp [selectIf, portElement]

theorem portSelect_of_selects {s : State} (h : PortSelects s) : portSelect s = .ok s.pointedElement := by
  rw [portSelect_eq, if_neg (Nat.not_le.2 h.1), if_pos h]

/-- ADATA stands for the pointed element. -/
theorem portValue_eq (s : State) : portValue s = readElement s.pointedElement s := by
  simp only [portValue, State.pointedElement, portElement]
  rcases s.regs.aselArr.toNat with _ | _ | _ | _ | _ | _ | _ | a <;> rfl

/-- Storing the low `n` bits and reading them back zero-extended masks the word. -/
theorem setWidth_setWidth_eq_and {n : Nat} (hn : n ≤ 32) (v : Word) :
    (v.setWidth n).setWidth 32 = v &&& BitVec.ofNat 32 (2 ^ n - 1) := by
  have hle : 2 ^ n ≤ 2 ^ 32 := Nat.pow_le_pow_right (by decide) hn
  have hpos : 0 < 2 ^ n := Nat.two_pow_pos n
  apply BitVec.eq_of_toNat_eq
  rw [BitVec.toNat_setWidth, BitVec.toNat_setWidth, BitVec.toNat_and, BitVec.toNat_ofNat,
    Nat.mod_eq_of_lt (a := 2 ^ n - 1) (by omega), Nat.and_two_pow_sub_one_eq_mod]
  exact Nat.mod_eq_of_lt ((Nat.mod_lt _ hpos).trans_le hle)

/-- What a stored element reads as (R36). -/
theorem readElement_writeElement_self (e : Element) (v : Word) (s : State) :
    readElement e (writeElement e v s) = portStored (e.selection s.params).1 v := by
  cases e with
  | v l i => simp [readElement, writeElement, setV_vAt, Element.selection, portStored]
  | rf l i => simp [readElement, writeElement, setRf_rfAt, Element.selection, portStored,
      setWidth_setWidth_eq_and (n := 1)]
  | th l i => simp [readElement, writeElement, setTh_thAt, Element.selection, portStored,
      BitVec.setWidth_eq_extractLsb']
  | dk l i => simp [readElement, writeElement, setDk_dkAt, Element.selection, portStored,
      BitVec.setWidth_eq_extractLsb']
  | sum i => simp [readElement, writeElement, setSum_sumAt, Element.selection, portStored]
  | counts i c => simp [readElement, writeElement, setCount_countAt, Element.selection, portStored]
  | sb k t b =>
    cases k <;>
      simp [readElement, writeElement, setSb_sbAt, Element.selection, portStored,
        setWidth_setWidth_eq_and (n := 8)]

/-- A stored element changes no other (R36). -/
theorem readElement_writeElement_ne {e e' : Element} (h : e' ≠ e) (v : Word) (s : State) :
    readElement e' (writeElement e v s) = readElement e' s := by
  cases e with
  | v l i => cases e' <;> simp_all [readElement, writeElement, setV_vAt]
  | rf l i => cases e' <;> simp_all [readElement, writeElement, setRf_rfAt, -not_and]
  | th l i => cases e' <;> simp_all [readElement, writeElement, setTh_thAt, -not_and]
  | dk l i => cases e' <;> simp_all [readElement, writeElement, setDk_dkAt, -not_and]
  | sum i => cases e' <;> simp_all [readElement, writeElement, setSum_sumAt]
  | counts i c => cases e' <;> simp_all [readElement, writeElement, setCount_countAt]
  | sb k t b => cases e' <;> simp_all [readElement, writeElement, setSb_sbAt, -not_and]

theorem writeElement_frame (e : Element) (v : Word) (s : State) :
    ∃ a, writeElement e v s = { s with arr := a } := by
  cases e with
  | sb k t b => cases k <;> exact ⟨_, rfl⟩
  | _ => exact ⟨_, rfl⟩

/-- After a write the port points where it did. -/
theorem portValue_writeElement (e : Element) (v : Word) (s : State) :
    portValue (writeElement e v s) = readElement s.pointedElement (writeElement e v s) := by
  obtain ⟨a, ha⟩ := writeElement_frame e v s
  rw [portValue_eq, ha]
  rfl

section Idle

variable {s : State} (hb : s.regs.status.busy = false)
include hb

theorem regError_adata {isWrite : Bool} : regError isWrite .adata s = portError .adata s := by
  cases isWrite
  · exact regError_read hb
  · exact regError_write hb rfl nofun

/-- While BUSY = 0 ADATA answers, or writes, the pointed element when the selection is valid. -/
theorem regError_adata_ok {isWrite : Bool} (h : PortSelects s) : regError isWrite .adata s = none := by
  simp [regError_adata hb, portError, portSelect_of_selects h]

theorem regError_adata_arr {isWrite : Bool} (h : 8 ≤ s.regs.aselArr.toNat) :
    regError isWrite .adata s = some 5 := by
  simp [regError_adata hb, portError, portSelect_eq, h]

theorem regError_adata_index {isWrite : Bool} (ha : s.regs.aselArr.toNat < 8) (h : ¬PortSelects s) :
    regError isWrite .adata s = some 6 := by
  simp only [regError_adata hb, portError, portSelect_eq, if_neg (Nat.not_le.2 ha), if_neg h, if_true]

end Idle

theorem adata_present (m : Nat) : Reg.adata.Present m := present_of_ne_desc nofun

/-- ADATA refused with a sub-cause, read and written. -/
theorem adata_refused {s : State} {sub : Nat} (v : Word)
    (h : ∀ isWrite, regError isWrite .adata s = some sub) :
    step (given (.regRead 0x038 32) s) = .next { refusedAccess sub 0x038 s with rdata := 0 } ∧
    step (given (.regWrite 0x038 32 v) s) = .next (refusedAccess sub 0x038 s) :=
  ⟨congrArg _ (hostRead_of_error (portCheck_offset_error (adata_present _) (h false))),
    congrArg _ (hostWrite_of_error (portCheck_offset_error (adata_present _) (h true)))⟩

theorem readReg_adata {s : State} (h : PortSelects s) : readReg .adata s = portValue s := by
  simp only [readReg, readPort, portSelect_of_selects h, portValue_eq]

theorem writeReg_adata {s : State} (h : PortSelects s) (v : Word) :
    writeReg .adata v s = writeElement s.pointedElement v s := by
  simp only [writeReg, writePort, portSelect_of_selects h]

/-- Two valid selections of one element are the same selection (R34). -/
theorem selection_unique {s : State} {a : BitVec 4} {l : Byte} {x : Word} (h : PortSelects s)
    (hx : PortSelects (pointed a l x s)) (he : (pointed a l x s).pointedElement = s.pointedElement) :
    a = s.regs.aselArr ∧ l = s.regs.aselLayer ∧ x = s.regs.aidx := by
  have hsel := selection_pointedElement hx
  rw [he] at hsel
  have hsel' := hsel.symm.trans (selection_pointedElement h)
  simpa [pointed, BitVec.toNat_inj] using hsel'

/-- The array port's pointer and the arrays do not meet. -/
theorem writeElement_pointed (e : Element) (v : Word) (a : BitVec 4) (l : Byte) (x : Word) (s : State) :
    pointed a l x (writeElement e v s) = writeElement e v (pointed a l x s) := by
  cases e with
  | sb k t b => cases k <;> rfl
  | _ => rfl

/-- Settles O13: a selection that differs names another element, and a stored element changes no other. -/
theorem arrayPort : Obligations.ArrayPort := by
  refine ⟨fun s v hb => adata_refused v (regError_adata_busy hb), fun s v hb =>
    ⟨fun ha => adata_refused v fun _ => regError_adata_arr hb ha,
      fun ha h => adata_refused v fun _ => regError_adata_index hb ha h, fun h => ?_⟩⟩
  have hread : hostRead Reg.adata.offset 32 s = { s with rdata := portValue s } := by
    rw [hostRead_of_ok (portCheck_offset_ok (adata_present _) (regError_adata_ok hb h)), readReg_adata h]
  have hwrite : hostWrite Reg.adata.offset 32 v s = writeElement s.pointedElement v s := by
    rw [hostWrite_of_ok (portCheck_offset_ok (adata_present _) (regError_adata_ok hb h)), writeReg_adata h]
  obtain ⟨a, ha⟩ := writeElement_frame s.pointedElement v s
  refine ⟨congrArg _ hread, _, congrArg _ hwrite, by rw [ha], ?_, fun a' l x hx hne => ?_⟩
  · rw [portValue_writeElement, readElement_writeElement_self, selection_pointedElement h]
  · have hother : (pointed a' l x s).pointedElement ≠ s.pointedElement :=
      fun he => hne (selection_unique h hx he)
    rw [writeElement_pointed, portValue_writeElement, readElement_writeElement_ne hother, portValue_eq]

/-! ### The sub-causes of a refused read -/

/-- The sub-causes of an invalid selection. -/
theorem portError_cases {r : Reg} {s : State} {sub : Nat} (h : portError r s = some sub) : sub = 5 ∨ sub = 6 := by
  unfold portError at h
  rw [portSelect_eq] at h
  split_ifs at h
  · exact .inl (Option.some.inj h).symm
  · exact .inr (Option.some.inj h).symm

/-- Sub-causes 3 and 4 are those of writes (R176). -/
theorem portCheck_read_error {off width sub : Nat} {s : State} (h : portCheck false off width s = .error sub) :
    sub ∈ [1, 2, 5, 6] := by
  obtain rfl | ⟨r, hr⟩ := portCheck_error_cases h
  · decide
  obtain rfl | hp := regError_read_cases hr
  · decide
  obtain rfl | rfl := portError_cases hp <;> decide

/-- Settles O15: a read answers a register, or a check refuses it. -/
theorem readHasNoSideEffect : Obligations.ReadHasNoSideEffect := by
  intro s off width
  rw [step_regRead]
  cases h : portCheck false off width s with
  | ok r => exact ⟨_, rfl, .inl (by rw [hostRead_of_ok h])⟩
  | error sub => exact ⟨_, rfl, .inr ⟨sub, portCheck_read_error h, hostRead_of_error h⟩⟩

end Sys2Proof.Machine
end

section
/-! What the registers read (spec/10_state.md R22 to R46), and what a write to one leaves in each. -/

namespace Sys2Proof.Machine

/-! ### STATUS -/

theorem getLsbD_bitAt (k : Nat) (b : Bool) {j : Nat} (hj : j < 32) :
    (bitAt k b).getLsbD j = (b && decide (j = k)) := by
  cases b with
  | false => simp [bitAt]
  | true =>
    have h : (!decide (j < k) && decide (j - k = 0)) = decide (j = k) := by
      rw [Bool.eq_iff_iff]
      simp only [Bool.and_eq_true, Bool.not_eq_true', decide_eq_false_iff_not, decide_eq_true_eq]
      omega
    simp [bitAt, hj, h]

/-- Each field of STATUS at its bit, 0 in the reserved bits (R23). -/
theorem getLsbD_statusWord (st : Status) {k : Nat} (hk : k < 32) :
    (statusWord st).getLsbD k =
      [st.busy, st.configured, st.fatal, decide (st.sel = .sb1), false, false, false, false, st.eCfg, st.eIdx,
        st.eIllcmd, st.eState, st.eAccess, st.eNan, st.eMem, false, st.ovf].getD k false := by
  have hsel : bufBit st.sel = decide (st.sel = .sb1) := by cases st.sel <;> rfl
  simp only [statusWord, BitVec.getLsbD_or, getLsbD_bitAt _ _ hk, hsel]
  interval_cases k <;> simp

/-! ### Registers of several fields -/

/-- A register of one bit holds the low bit of what is written to it (R27). -/
theorem bitAt_getLsbD_zero (v : Word) : bitAt 0 (v.getLsbD 0) = v &&& 0x1 := by
  apply BitVec.eq_of_getLsbD_eq
  intro i hi
  rw [getLsbD_bitAt _ _ hi]
  by_cases h : i = 0 <;> simp [h]

theorem toNat_append_eq {n m : Nat} (x : BitVec n) (y : BitVec m) :
    (x ++ y).toNat = x.toNat * 2 ^ m + y.toNat := by
  rw [BitVec.toNat_append, ← Nat.shiftLeft_add_eq_or_of_lt y.isLt, Nat.shiftLeft_eq]

/-- ASEL holds LAYER in bits 15:8 and ARR in bits 3:0 (R34). -/
theorem readReg_asel (s : State) :
    readReg .asel s = BitVec.ofNat 32 (s.regs.aselLayer.toNat * 2 ^ 8 + s.regs.aselArr.toNat) := by
  apply BitVec.eq_of_toNat_eq
  simp only [readReg, BitVec.toNat_setWidth, toNat_append_eq, BitVec.toNat_ofNat]
  congr 1
  omega

/-- PARAM0 holds NCHUNKS in bits 31:16 and TAU in bits 15:0 (R37). -/
theorem readReg_param0 {s : State} (h : s.params.Valid) :
    readReg .param0 s = BitVec.ofNat 32 (s.params.nChunks * 2 ^ 16 + s.params.tau) := by
  obtain ⟨⟨-, htau⟩, ⟨-, -, hchunks⟩, -⟩ := h
  apply BitVec.eq_of_toNat_eq
  simp only [readReg, param0, toNat_append_eq, BitVec.toNat_ofNat]
  omega

/-- PARAM1 holds MAX_LAYERS in bits 28:20 and MAX_NEURONS in bits 16:0 (R37). -/
theorem readReg_param1 {s : State} (h : s.params.Valid) :
    readReg .param1 s = BitVec.ofNat 32 (s.params.maxLayers * 2 ^ 20 + s.params.maxNeurons) := by
  obtain ⟨-, -, ⟨-, hneurons⟩, ⟨-, hlayers⟩⟩ := h
  apply BitVec.eq_of_toNat_eq
  simp only [readReg, param1, toNat_append_eq, BitVec.toNat_ofNat]
  omega

/-- LGEOM holds K in bits 31:16 and IN_SIDE in bits 15:0 (R45). -/
theorem readDesc_lgeom (d : LayerDesc) :
    readDesc .lgeom d = BitVec.ofNat 32 (d.kSide.toNat * 2 ^ 16 + d.inSide.toNat) := by
  apply BitVec.eq_of_toNat_eq
  simp only [readDesc, toNat_append_eq, BitVec.toNat_ofNat]
  omega

/-- Settles O16: while BUSY = 0 a read of any register but ADATA answers `readReg` of it, STATUS in every state. -/
theorem registersReadTheirFields : Obligations.RegistersReadTheirFields := by
  intro s
  have hstatus : Reg.status.Present s.params.maxLayers := present_of_ne_desc nofun
  refine ⟨⟨_, congrArg _ (hostRead_of_ok (portCheck_offset_ok hstatus (regError_read_status s))),
    fun k hk => getLsbD_statusWord s.regs.status hk⟩, fun hb => ?_⟩
  have read (r : Reg) (hd : ∀ l f, r ≠ .desc l f) (hr : r ≠ .adata) :
      step (given (.regRead r.offset 32) s) = .next { s with rdata := readReg r s } :=
    congrArg _ (hostRead_offset hb (present_of_ne_desc hd) hr)
  refine ⟨?_, fun hv => ?_, fun l hl => ?_⟩
  · simp only [List.forall_mem_cons, List.not_mem_nil, false_imp_iff, implies_true, and_true]
    exact ⟨read .id nofun nofun, read .errcode nofun nofun, read .errinfo nofun nofun, read .cmd nofun nofun,
      read .ctrl nofun nofun, read .nlayers nofun nofun, read .srcBase nofun nofun, read .codecIn nofun nofun,
      read .codecOut nofun nofun, read .bitres nofun nofun, read .result nofun nofun,
      readReg_asel s ▸ read .asel nofun nofun, read .aidx nofun nofun, read .param2 nofun nofun⟩
  · exact ⟨readReg_param0 hv ▸ read .param0 nofun nofun, readReg_param1 hv ▸ read .param1 nofun nofun⟩
  · have readField (f : DescField) :
        step (given (.regRead (Reg.desc l f).offset 32) s) = .next { s with rdata := readDesc f (s.desc l) } :=
      congrArg _ (hostRead_offset hb (present_desc f hl) nofun)
    simp only [List.forall_mem_cons, List.not_mem_nil, false_imp_iff, implies_true, and_true]
    exact ⟨readField .lkind, readField .lneur, readField .lthr, readField .ldecay, readField .lwbase,
      readField .lbbase, readDesc_lgeom (s.desc l) ▸ readField .lgeom, readField .lfilt⟩

/-! ### Writing and reading back -/

/-- The defined bits of a descriptor register (R39 to R46). -/
def DescField.mask (f : DescField) : Word :=
  match f with
  | .lkind => 0x3
  | .lneur => 0x1FFFF
  | .lthr => 0xFFFF
  | .ldecay => 0xFFFF
  | .lwbase => 0xFFFFFFFF
  | .lbbase => 0xFFFFFFFF
  | .lgeom => 0xFFFFFFFF
  | .lfilt => 0x1FFFF

/-- The defined bits of a register that stores what is written to it (R27 to R30, R34, R35, R39 to R46); 0 for a
register that does not. -/
def Reg.mask (r : Reg) : Word :=
  match r with
  | .ctrl => 0x1
  | .nlayers => 0x1FF
  | .srcBase => 0xFFFFFFFF
  | .codecIn => 0xFFFFFFFF
  | .asel => 0xFF0F
  | .aidx => 0xFFFFFFFF
  | .desc _ f => f.mask
  | _ => 0

/-- The registers that hold what is written to them: a write to CMD issues a command, one to ADATA stores an
element (R26, R36). -/
def Reg.Storing (r : Reg) : Prop := regReadOnly r = false ∧ r ≠ .cmd ∧ r ≠ .adata

/-- ASEL keeps bits 15:8 and 3:0 of what is written to it (R34). -/
theorem asel_fields_eq_and (v : Word) :
    (v.extractLsb' 8 8 ++ 0#4 ++ v.extractLsb' 0 4).setWidth 32 = v &&& 0xFF0F := by
  apply BitVec.eq_of_getLsbD_eq
  intro i hi
  simp only [BitVec.getLsbD_setWidth, BitVec.getLsbD_append, BitVec.getLsbD_extractLsb', BitVec.getLsbD_and]
  interval_cases i <;> simp

/-- LGEOM's two halves make the word (R45). -/
theorem geom_fields_eq (v : Word) : v.extractLsb' 16 16 ++ v.extractLsb' 0 16 = v :=
  (BitVec.extractLsb'_append_extractLsb'_eq_extractLsb' rfl).trans BitVec.extractLsb'_eq_self

theorem and_allOnes (v : Word) : v &&& 0xFFFFFFFF = v := BitVec.and_allOnes

theorem readDesc_writeDesc_self (f : DescField) (v : Word) (d : LayerDesc) :
    readDesc f (writeDesc f v d) = v &&& f.mask := by
  cases f with
  | lkind => exact setWidth_setWidth_eq_and (by decide) v
  | lneur => exact setWidth_setWidth_eq_and (by decide) v
  | lthr => exact setWidth_setWidth_eq_and (by decide) v
  | ldecay => exact setWidth_setWidth_eq_and (by decide) v
  | lwbase => exact (and_allOnes v).symm
  | lbbase => exact (and_allOnes v).symm
  | lgeom => exact (geom_fields_eq v).trans (and_allOnes v).symm
  | lfilt => exact setWidth_setWidth_eq_and (by decide) v

theorem readDesc_writeDesc_ne {f f' : DescField} (h : f' ≠ f) (v : Word) (d : LayerDesc) :
    readDesc f' (writeDesc f v d) = readDesc f' d := by
  cases f <;> cases f' <;> simp_all [readDesc, writeDesc]

/-- A write to a descriptor register changes its own descriptor only. -/
theorem writeReg_desc_desc (l : Nat) (f : DescField) (v : Word) (s : State) (l' : Nat) :
    (writeReg (.desc l f) v s).desc l' =
      if l' = l ∧ l < s.regs.layers.length then writeDesc f v (s.desc l) else s.desc l' := by
  simp only [writeReg, State.desc, List.getD_eq_getElem?_getD]
  by_cases hl : l' = l
  · subst hl
    by_cases hlen : l' < s.regs.layers.length <;> simp [hlen]
  · simp [hl, Ne.symm hl]

/-- A register reads back its defined bits, and 0 in the others. -/
theorem readReg_writeReg_self {r : Reg} {s : State} (hr : r.Storing) (hp : r.Present s.regs.layers.length)
    (v : Word) : readReg r (writeReg r v s) = v &&& r.mask := by
  obtain ⟨hro, hcmd, hadata⟩ := hr
  cases r with
  | cmd => exact absurd rfl hcmd
  | adata => exact absurd rfl hadata
  | ctrl => exact bitAt_getLsbD_zero v
  | nlayers => exact setWidth_setWidth_eq_and (by decide) v
  | srcBase => exact (and_allOnes v).symm
  | codecIn => exact (and_allOnes v).symm
  | asel => exact asel_fields_eq_and v
  | aidx => exact (and_allOnes v).symm
  | desc l f =>
    have hl := hp l f rfl
    rw [readReg, writeReg_desc_desc, if_pos ⟨rfl, hl⟩, readDesc_writeDesc_self, Reg.mask]
  | _ => cases hro

/-- Every other register reads as before. -/
theorem readReg_writeReg_ne {r r' : Reg} {s : State} (hr : r.Storing) (hne : r' ≠ r) (ha : r' ≠ .adata) (v : Word) :
    readReg r' (writeReg r v s) = readReg r' s := by
  obtain ⟨hro, hcmd, hadata⟩ := hr
  cases r with
  | cmd => exact absurd rfl hcmd
  | adata => exact absurd rfl hadata
  | ctrl | nlayers | srcBase | codecIn | asel | aidx => cases r' <;> simp_all [readReg, writeReg, State.desc]
  | desc l f =>
    cases r' with
    | desc l' f' =>
      rw [readReg, writeReg_desc_desc]
      split
      · next h =>
        have hf : f' ≠ f := fun hf => hne (by rw [h.1, hf])
        rw [readDesc_writeDesc_ne hf, readReg, h.1]
      · rfl
    | adata => exact absurd rfl ha
    | _ => rfl
  | _ => cases hro

/-- A write to a storing register changes the registers only, and not STATUS. -/
theorem writeReg_frame {r : Reg} (hr : r.Storing) (v : Word) (s : State) :
    ∃ rs, writeReg r v s = { s with regs := rs } ∧ rs.status = s.regs.status := by
  obtain ⟨hro, hcmd, hadata⟩ := hr
  cases r with
  | cmd => exact absurd rfl hcmd
  | adata => exact absurd rfl hadata
  | _ => exact ⟨_, rfl, rfl⟩

/-- What a read answers when the state differs in other registers only. -/
theorem hostRead_rdata_congr {s t : State} {off : Nat} (hp : t.params = s.params)
    (hb : t.regs.status.busy = s.regs.status.busy) (ha : off ≠ Reg.adata.offset)
    (h : ∀ r : Reg, off = r.offset → readReg r t = readReg r s) :
    (hostRead off 32 t).rdata = (hostRead off 32 s).rdata := by
  have hcheck : portCheck false off 32 t = portCheck false off 32 s := by
    have herr : ∀ r, r ≠ .adata → regError false r t = regError false r s := fun r hr => by
      simp [regError, hb, portError_eq_none hr]
    simp only [portCheck, hp]
    cases hr : regAt s.params.maxLayers off with
    | none => rfl
    | some r => simp only [herr r fun e => ha ((regAt_eq_some.1 hr).1.trans (congrArg Reg.offset e))]
  cases hc : portCheck false off 32 s with
  | ok r =>
    rw [hostRead_of_ok hc, hostRead_of_ok (hcheck.trans hc)]
    obtain ⟨-, -, hr, -⟩ := portCheck_eq_ok.1 hc
    exact h r (regAt_eq_some.1 hr).1
  | error sub => rw [hostRead_of_error hc, hostRead_of_error (hcheck.trans hc)]

/-- The word indices and masks of a descriptor's registers. -/
theorem desc_masks : ∀ x ∈ ([(0x00, 0x3), (0x04, 0x1FFFF), (0x08, 0xFFFF), (0x0C, 0xFFFF), (0x10, 0xFFFFFFFF),
      (0x14, 0xFFFFFFFF), (0x18, 0xFFFFFFFF), (0x1C, 0x1FFFF)] : List (Nat × Word)),
    ∃ g ∈ [DescField.lkind, .lneur, .lthr, .ldecay, .lwbase, .lbbase, .lgeom, .lfilt],
      x.1 = 4 * g.index ∧ x.2 = g.mask := by decide

/-- Settles O14: the mask and the lock of each register of the lists, then the read-after-write laws. -/
theorem registerReadsBack : Obligations.RegisterReadsBack := by
  intro s off mask v hb hlen h
  obtain ⟨r, rfl, rfl, hr, hl, hp⟩ : ∃ r : Reg, off = r.offset ∧ mask = r.mask ∧ r.Storing ∧
      (regLocked r = true → s.regs.status.configured = false) ∧ r.Present s.params.maxLayers := by
    obtain h | ⟨hc, h | ⟨l, hlt, f, rfl, hf⟩⟩ := h
    · simp only [List.mem_cons, Prod.mk.injEq, List.not_mem_nil, or_false] at h
      obtain ⟨rfl, rfl⟩ | ⟨rfl, rfl⟩ | ⟨rfl, rfl⟩ | ⟨rfl, rfl⟩ := h
      · exact ⟨.srcBase, rfl, rfl, ⟨rfl, nofun, nofun⟩, nofun, present_of_ne_desc nofun⟩
      · exact ⟨.codecIn, rfl, rfl, ⟨rfl, nofun, nofun⟩, nofun, present_of_ne_desc nofun⟩
      · exact ⟨.asel, rfl, rfl, ⟨rfl, nofun, nofun⟩, nofun, present_of_ne_desc nofun⟩
      · exact ⟨.aidx, rfl, rfl, ⟨rfl, nofun, nofun⟩, nofun, present_of_ne_desc nofun⟩
    · simp only [List.mem_cons, Prod.mk.injEq, List.not_mem_nil, or_false] at h
      obtain ⟨rfl, rfl⟩ | ⟨rfl, rfl⟩ := h
      · exact ⟨.ctrl, rfl, rfl, ⟨rfl, nofun, nofun⟩, fun _ => hc, present_of_ne_desc nofun⟩
      · exact ⟨.nlayers, rfl, rfl, ⟨rfl, nofun, nofun⟩, fun _ => hc, present_of_ne_desc nofun⟩
    · obtain ⟨g, -, rfl, rfl⟩ := desc_masks (f, mask) hf
      exact ⟨.desc l g, rfl, rfl, ⟨rfl, nofun, nofun⟩, fun _ => hc, present_desc g hlt⟩
  obtain ⟨hro, -, hadata⟩ := id hr
  have hwrite : hostWrite r.offset 32 v s = writeReg r v s := hostWrite_offset hb hp hro hl hadata v
  obtain ⟨rs, hrs, hst⟩ := writeReg_frame hr v s
  have hparams : (writeReg r v s).params = s.params := by rw [hrs]
  have hbusy : (writeReg r v s).regs.status.busy = s.regs.status.busy := by rw [hrs, hst]
  refine ⟨_, congrArg _ hwrite, by rw [hrs], ?_, fun off' hne hne' => ?_⟩
  · rw [step_regRead, hostRead_offset (hbusy.trans hb) (hparams ▸ hp) hadata,
      readReg_writeReg_self hr (hlen ▸ hp)]
  · refine hostRead_rdata_congr hparams hbusy hne' fun r' hr' => ?_
    exact readReg_writeReg_ne hr (fun e => hne (e ▸ hr')) (fun e => hne' (hr'.trans (congrArg Reg.offset e))) v

end Sys2Proof.Machine
end

section
/-! Acceptance and completion: the word of a decoded command is its encoding (spec/30_encoding.md R81, R84), and the
topology no step changes while CONFIGURED stays 1 (spec/10_state.md R47). -/

namespace Sys2Proof

theorem formatZ_eq_ok {w : Word} {i j : Instr} (h : formatZ w j = .ok i) :
    j = i ∧ fieldX w = 0 ∧ fieldY w = 0 := by
  unfold formatZ at h
  split at h
  · next hz => exact ⟨Except.ok.inj h, hz⟩
  · cases h

theorem formatX_eq_ok {w : Word} {i : Instr} {f : Nat → Instr} (h : formatX w f = .ok i) :
    f (fieldX w) = i ∧ fieldY w = 0 := by
  unfold formatX at h
  split at h
  · next hz => exact ⟨Except.ok.inj h, hz⟩
  · cases h

theorem formatY_eq_ok {w : Word} {i : Instr} {f : Nat → Instr} (h : formatY w f = .ok i) :
    f (fieldY w) = i ∧ fieldX w = 0 := by
  unfold formatY at h
  split at h
  · next hz => exact ⟨Except.ok.inj h, hz⟩
  · cases h

/-- The fields of a command's word are its opcode and its operands (R81, R84). -/
theorem fields_of_decode {w : Word} {i : Instr} (h : decode w = .ok i) :
    opOf i = fieldOp w ∧ xOf i = fieldX w ∧ yOf i = fieldY w := by
  unfold decode at h
  split at h
  case h_1 hop | h_2 hop | h_3 hop | h_4 hop | h_5 hop | h_6 hop | h_7 hop | h_14 hop | h_16 hop | h_28 hop =>
    obtain ⟨rfl, hx, hy⟩ := formatZ_eq_ok h
    exact ⟨hop.symm, hx.symm, hy.symm⟩
  case h_17 hop | h_18 hop | h_19 hop | h_20 hop | h_22 hop | h_26 hop | h_27 hop =>
    obtain ⟨rfl, hy⟩ := formatX_eq_ok h
    exact ⟨hop.symm, rfl, hy.symm⟩
  case h_29 hop =>
    obtain ⟨rfl, hx⟩ := formatY_eq_ok h
    exact ⟨hop.symm, hx.symm, rfl⟩
  case h_8 hop | h_9 hop | h_10 hop | h_11 hop | h_12 hop | h_13 hop | h_15 hop | h_21 hop | h_23 hop | h_24 hop |
      h_25 hop =>
    obtain rfl := Except.ok.inj h
    exact ⟨hop.symm, rfl, rfl⟩
  case h_30 => cases h

/-- A word that decodes is the encoding of its command (R84). -/
theorem encode_of_decode {w : Word} {i : Instr} (h : decode w = .ok i) : encode i = w := by
  obtain ⟨hop, hx, hy⟩ := fields_of_decode h
  rw [encode, hop, hx, hy, packWord_fields]

end Sys2Proof

namespace Sys2Proof.Machine

theorem step_complete (s : State) : step (given .complete s) = completeStep s := rfl

/-- The Complete step of a latched command (R89). -/
theorem completeStep_latch {w : Word} {i : Instr} (h : decode w = .ok i) (s : State) :
    completeStep (latch w s) = .next (finish (effectOf i (latch w s))) := by
  have hcmd : decode (latch w s).regs.cmd = .ok i := h
  have hbusy : (latch w s).regs.status.busy = true := rfl
  rw [completeStep, if_pos hbusy, hcmd]

theorem completeStep_idle {s : State} (h : s.regs.status.busy = false) : completeStep s = .next s := by
  simp [completeStep, h]

/-- While BUSY = 0 a write to CMD passes the register port (R21, R26). -/
theorem hostWrite_cmd {s : State} (hb : s.regs.status.busy = false) (w : Word) :
    hostWrite 0x010 32 w s = acceptWord w s :=
  hostWrite_offset (r := .cmd) hb (present_of_ne_desc nofun) rfl nofun nofun w

theorem raise_busy (e : ErrRecord) (s : State) : (raise e s).regs.status.busy = s.regs.status.busy :=
  raiseStatus_busy e.kind s.regs.status

/-- Settles O7: both ways latch the same word and have the effects of the same command. -/
theorem acceptThenComplete : Obligations.AcceptThenComplete := by
  intro s w i hb hd
  have hwrite : hostWrite 0x010 32 w (given .complete s) = acceptWord w (given .complete s) :=
    hostWrite_cmd (s := given .complete s) hb w
  have hgiven : acceptError i (given .complete s) = acceptError i s :=
    acceptError_congr i rfl rfl rfl rfl rfl rfl rfl
  rw [step_regWrite, hwrite]
  cases he : acceptError i s with
  | some e =>
    have hm : acceptWord w (given .complete s) = given .complete (raise e s) := by
      simp only [acceptWord, hd, hgiven, he]
      rfl
    have hidle : (raise e s).regs.status.busy = false := (raise_busy e s).trans hb
    refine ⟨_, rfl, ?_, nofun, fun _ => ?_⟩
    · rw [hm, step_complete, completeStep_idle hidle, exec_eq_issue, issue_refused hb he]
    · rw [hm]
      exact ⟨hidle, rfl⟩
  | none =>
    have hm : acceptWord w (given .complete s) = given .complete (latch w s) := by
      simp only [acceptWord, hd, hgiven, he]
      rfl
    refine ⟨_, rfl, ?_, fun _ => hm, fun h => absurd rfl h⟩
    rw [hm, step_complete, completeStep_latch hd, exec_eq_issue, issue_accepted hb he, encode_of_decode hd]

/-! ### The topology (R47) -/

/-- NLAYERS, CTRL and the descriptors are the same in both states. -/
def SameTopology (s t : State) : Prop :=
  t.regs.nlayers = s.regs.nlayers ∧ t.regs.layers = s.regs.layers ∧ t.regs.ifMode = s.regs.ifMode

theorem sameTopology_raise (e : ErrRecord) (s : State) : SameTopology s (raise e s) := ⟨rfl, rfl, rfl⟩

theorem sameTopology_of_touches {s t : State} (h : Touches s t) : SameTopology s t := by
  obtain ⟨a, d, co, br, res, sel, o, c, rfl⟩ := h
  exact ⟨rfl, rfl, rfl⟩

/-- A command's effects change no topology, or are SRST's, which clears CONFIGURED (R156). -/
theorem sameTopology_effectOf (i : Instr) {s : State} (hc : (finish (effectOf i s)).regs.status.configured = true) :
    SameTopology s (finish (effectOf i s)) := by
  have hi : i ≠ .srst := by
    rintro rfl
    cases hc
  have h : SameTopology s (effectOf i s) := sameTopology_of_touches (touches_effectOf hi s)
  exact h

theorem sameTopology_completeStep {s t : State} (h : completeStep s = .next t)
    (hc : t.regs.status.configured = true) : SameTopology s t := by
  obtain ⟨-, rfl⟩ | ⟨-, i, -, rfl⟩ := completeStep_cases h
  · exact ⟨rfl, rfl, rfl⟩
  · exact sameTopology_effectOf i hc

theorem sameTopology_exec {i : Instr} {s t : State} (h : exec i s = .next t)
    (hc : t.regs.status.configured = true) : SameTopology s t := by
  rw [exec_eq_issue] at h
  obtain ⟨-, h'⟩ | ⟨e, -, -, h'⟩ | ⟨-, -, h'⟩ := issue_cases i (effectOf i) s
  all_goals obtain rfl := Host.Outcome.next.inj (h.symm.trans h')
  · exact sameTopology_raise _ s
  · exact sameTopology_raise e s
  · exact sameTopology_effectOf (s := latch (encode i) s) i hc

theorem sameTopology_hostRead (off width : Nat) (s : State) : SameTopology s (hostRead off width s) := by
  obtain ⟨r, -, h⟩ | ⟨sub, -, h⟩ := hostRead_cases off width s
  all_goals
    rw [h]
    exact ⟨rfl, rfl, rfl⟩

theorem sameTopology_acceptWord (w : Word) (s : State) : SameTopology s (acceptWord w s) := by
  obtain ⟨h, -⟩ | ⟨i, e, -, -, h⟩ | ⟨i, -, -, h⟩ := acceptWord_cases w s
  all_goals
    rw [h]
    exact ⟨rfl, rfl, rfl⟩

/-- A write to a register that is not locked changes no topology. -/
theorem sameTopology_writeReg {r : Reg} (hl : regLocked r = false) (v : Word) (s : State) :
    SameTopology s (writeReg r v s) := by
  cases r with
  | cmd => exact sameTopology_acceptWord v s
  | adata =>
    simp only [writeReg, writePort]
    split
    · next e _ =>
      obtain ⟨a, ha⟩ := writeElement_frame e v s
      rw [ha]
      exact ⟨rfl, rfl, rfl⟩
    · exact ⟨rfl, rfl, rfl⟩
  | ctrl | nlayers | desc l f => cases hl
  | _ => exact ⟨rfl, rfl, rfl⟩

/-- Check 4: while CONFIGURED = 1 no write that passes is to a locked register. -/
theorem regLocked_of_regError {r : Reg} {s : State} (hc : s.regs.status.configured = true)
    (h : regError true r s = none) : regLocked r = false := by
  cases hb : s.regs.status.busy with
  | true => simp [regError, hb] at h
  | false =>
    by_contra hl
    rw [regError_write_locked hb (by simpa using hl) hc] at h
    cases h

theorem sameTopology_hostWrite {s : State} (hc : s.regs.status.configured = true) (off width : Nat) (v : Word) :
    SameTopology s (hostWrite off width v s) := by
  obtain ⟨r, hr, h⟩ | ⟨sub, -, h⟩ := hostWrite_cases off width v s
  · obtain ⟨-, -, -, hok⟩ := portCheck_eq_ok.1 hr
    exact h ▸ sameTopology_writeReg (regLocked_of_regError hc hok) v s
  · exact h ▸ sameTopology_raise _ s

theorem sameTopology_takesInput {e : Input} {s t : State} (h : TakesInput e s t)
    (hs : s.regs.status.configured = true) (ht : t.regs.status.configured = true) : SameTopology s t := by
  cases e with
  | regRead off width => exact h ▸ sameTopology_hostRead off width s
  | regWrite off width v => exact h ▸ sameTopology_hostWrite hs off width v
  | command w =>
    obtain ⟨i, -, h⟩ | ⟨-, ⟨-, rfl⟩ | ⟨-, rfl⟩⟩ := h
    · exact sameTopology_exec h ht
    · exact sameTopology_raise _ s
    · exact sameTopology_raise _ s
  | complete => exact sameTopology_completeStep h ht
  | hwReset a =>
    obtain rfl : t = hardReset a s := h
    cases ht
  | tmemWrite a b =>
    obtain rfl : t = platformStore a b s := h
    exact ⟨rfl, rfl, rfl⟩

/-- Settles O58: check 4 guards the writes, SRST and the hardware reset clear CONFIGURED, and nothing else writes
the topology. -/
theorem topologyFixed : Obligations.TopologyFixed := by
  intro s t h hs ht
  obtain ⟨-, h⟩ | ⟨e, rest, -, h⟩ := step_cases h
  · exact sameTopology_completeStep h ht
  · exact sameTopology_takesInput (s := { s with inputs := rest }) h hs ht

end Sys2Proof.Machine
end

section
/-! TMEM (spec/20_memory.md R61 to R63, R76): no step of the unit writes it or a parameter, what the record of replaced
bytes holds, and what a read of it returns. -/

namespace Sys2Proof.Machine

/-- What the platform's store leaves at every address (R61). -/
theorem platformStore_tmemAt (a : Word) (b : Byte) (s : State) (x : Nat) :
    (platformStore a b s).tmemAt x = if x = a.toNat then b else s.tmemAt x :=
  cellGet_cellSet addrLt a.toNat x b s.tmem

theorem step_tmemWrite (a : Word) (b : Byte) (s : State) :
    step (given (.tmemWrite a b) s) = .next (platformStore a b s) := rfl

/-! ### What every step but the platform's store leaves -/

/-- The parameters and TMEM are the same in both states, and where `t` is BUSY the record is the one of `s`, or empty
when `t` is the acceptance of a command (R62, R76). -/
def KeepsMemory (s t : State) : Prop :=
  t.params = s.params ∧ t.tmem = s.tmem ∧
    (t.regs.status.busy = true → t.stale = if s.regs.status.busy = true then s.stale else [])

/-- A step that leaves BUSY and the record alone keeps the memory. -/
theorem KeepsMemory.of_same {s t : State} (hp : t.params = s.params) (hm : t.tmem = s.tmem)
    (hb : t.regs.status.busy = s.regs.status.busy) (hr : t.stale = s.stale) : KeepsMemory s t :=
  ⟨hp, hm, fun h => by rw [hr, if_pos (hb ▸ h)]⟩

/-- Of a step that ends idle nothing is asked about the record. -/
theorem KeepsMemory.of_idle {s t : State} (hp : t.params = s.params) (hm : t.tmem = s.tmem)
    (hb : t.regs.status.busy = false) : KeepsMemory s t :=
  ⟨hp, hm, fun h => absurd (hb.symm.trans h) nofun⟩

theorem keepsMemory_raise (e : ErrRecord) (s : State) : KeepsMemory s (raise e s) :=
  .of_same rfl rfl (raise_busy e s) rfl

/-- Acceptance empties the record (R76). -/
theorem keepsMemory_latch {s : State} (hb : s.regs.status.busy = false) (w : Word) : KeepsMemory s (latch w s) :=
  ⟨rfl, rfl, fun _ => by rw [latch_stale, hb, if_neg Bool.false_ne_true]⟩

/-- No command's effects write a parameter or TMEM (R62). -/
theorem effectOf_params_tmem (i : Instr) (s : State) :
    (effectOf i s).params = s.params ∧ (effectOf i s).tmem = s.tmem := by
  by_cases hi : i = .srst
  · subst hi
    exact ⟨rfl, rfl⟩
  · obtain ⟨a, d, co, br, res, sel, o, c, h⟩ := touches_effectOf hi s
    rw [h]
    exact ⟨rfl, rfl⟩

theorem keepsMemory_finish_effectOf (i : Instr) (s : State) : KeepsMemory s (finish (effectOf i s)) := by
  obtain ⟨hp, hm⟩ := effectOf_params_tmem i s
  exact .of_idle hp hm (finish_busy _)

theorem keepsMemory_completeStep {s t : State} (h : completeStep s = .next t) : KeepsMemory s t := by
  obtain ⟨-, rfl⟩ | ⟨-, i, -, rfl⟩ := completeStep_cases h
  · exact .of_same rfl rfl rfl rfl
  · exact keepsMemory_finish_effectOf i s

theorem keepsMemory_exec {i : Instr} {s t : State} (h : exec i s = .next t) : KeepsMemory s t := by
  rw [exec_eq_issue] at h
  obtain ⟨-, h'⟩ | ⟨e, -, -, h'⟩ | ⟨-, -, h'⟩ := issue_cases i (effectOf i) s
  all_goals obtain rfl := Host.Outcome.next.inj (h.symm.trans h')
  · exact keepsMemory_raise _ s
  · exact keepsMemory_raise e s
  · obtain ⟨hp, hm⟩ := effectOf_params_tmem i (latch (encode i) s)
    exact .of_idle hp hm (finish_busy _)

theorem keepsMemory_hostRead (off width : Nat) (s : State) : KeepsMemory s (hostRead off width s) := by
  obtain ⟨r, -, h⟩ | ⟨sub, -, h⟩ := hostRead_cases off width s
  · exact h ▸ .of_same rfl rfl rfl rfl
  · exact h ▸ .of_same rfl rfl (raise_busy _ s) rfl

theorem keepsMemory_acceptWord {s : State} (hb : s.regs.status.busy = false) (w : Word) :
    KeepsMemory s (acceptWord w s) := by
  obtain ⟨h, -⟩ | ⟨i, e, -, -, h⟩ | ⟨i, -, -, h⟩ := acceptWord_cases w s
  · exact h ▸ keepsMemory_raise _ s
  · exact h ▸ keepsMemory_raise e s
  · exact h ▸ keepsMemory_latch hb w

theorem keepsMemory_writePort (v : Word) (s : State) : KeepsMemory s (writePort v s) := by
  unfold writePort
  split
  · next e _ =>
    obtain ⟨a, ha⟩ := writeElement_frame e v s
    exact ha ▸ .of_same rfl rfl rfl rfl
  · exact .of_same rfl rfl rfl rfl

/-- Of the registers only CMD reaches the record, and an idle unit's CMD at that (R26). -/
theorem keepsMemory_writeReg {s : State} (hb : s.regs.status.busy = false) (r : Reg) (v : Word) :
    KeepsMemory s (writeReg r v s) := by
  cases r with
  | cmd => exact keepsMemory_acceptWord hb v
  | adata => exact keepsMemory_writePort v s
  | _ => exact .of_same rfl rfl rfl rfl

/-- Check 2: no write passes while BUSY = 1. -/
theorem idle_of_regError_write {r : Reg} {s : State} (h : regError true r s = none) :
    s.regs.status.busy = false := by
  cases hb : s.regs.status.busy with
  | true => simp [regError, hb] at h
  | false => rfl

theorem keepsMemory_hostWrite (off width : Nat) (v : Word) (s : State) : KeepsMemory s (hostWrite off width v s) := by
  obtain ⟨r, hr, h⟩ | ⟨sub, -, h⟩ := hostWrite_cases off width v s
  · obtain ⟨-, -, -, hok⟩ := portCheck_eq_ok.1 hr
    exact h ▸ keepsMemory_writeReg (idle_of_regError_write hok) r v
  · exact h ▸ keepsMemory_raise _ s

theorem keepsMemory_takesInput {e : Input} {s t : State} (h : TakesInput e s t)
    (he : ∀ a b, e ≠ .tmemWrite a b) : KeepsMemory s t := by
  cases e with
  | regRead off width => exact h ▸ keepsMemory_hostRead off width s
  | regWrite off width v => exact h ▸ keepsMemory_hostWrite off width v s
  | command w =>
    obtain ⟨i, -, h⟩ | ⟨-, ⟨-, rfl⟩ | ⟨-, rfl⟩⟩ := h
    · exact keepsMemory_exec h
    · exact keepsMemory_raise _ s
    · exact keepsMemory_raise _ s
  | complete => exact keepsMemory_completeStep h
  | hwReset a =>
    obtain rfl : t = hardReset a s := h
    exact .of_idle rfl rfl rfl
  | tmemWrite a b => exact absurd rfl (he a b)

/-- Everything a step can do to the memory: it is the platform's store, or it keeps the memory. -/
theorem step_keepsMemory_or_store {s t : State} (h : step s = .next t) :
    ((∀ a b, s.inputs.head? ≠ some (.tmemWrite a b)) ∧ KeepsMemory s t) ∨
    ∃ a b rest, s.inputs = .tmemWrite a b :: rest ∧ t = platformStore a b { s with inputs := rest } := by
  obtain ⟨hnil, h⟩ | ⟨e, rest, hs, h⟩ := step_cases h
  · exact .inl ⟨by simp [hnil], keepsMemory_completeStep h⟩
  · by_cases he : ∃ a b, e = .tmemWrite a b
    · obtain ⟨a, b, rfl⟩ := he
      exact .inr ⟨a, b, rest, hs, h⟩
    · have hne : ∀ a b, e ≠ .tmemWrite a b := fun a b hab => he ⟨a, b, hab⟩
      exact .inl ⟨by simpa [hs] using hne, keepsMemory_takesInput (s := { s with inputs := rest }) h hne⟩

/-- Settles O59: every step but the platform's store keeps TMEM, and the store changes its one byte. -/
theorem tmemIsReadOnly : Obligations.TmemIsReadOnly := by
  intro s t h
  obtain ⟨hne, hp, hm, -⟩ | ⟨a, b, rest, hs, rfl⟩ := step_keepsMemory_or_store h
  · exact ⟨hp, fun _ => hm, fun a b hab => absurd hab (hne a b)⟩
  · have hhead : s.inputs.head? = some (.tmemWrite a b) := by rw [hs, List.head?_cons]
    refine ⟨rfl, fun hne => absurd hhead (hne a b), fun a' b' hab x => ?_⟩
    obtain ⟨rfl, rfl⟩ := Input.tmemWrite.inj (Option.some.inj (hhead.symm.trans hab))
    exact platformStore_tmemAt a b { s with inputs := rest } x

/-! ### What a read returns (R61, R63, R76) -/

/-- A read returns the byte that stands at the address or one recorded for it, whatever the free value (R76). -/
theorem memRead_mem (s : State) (a : Nat) : (s.memRead a).1 ∈ s.tmemAt a :: s.staleAt a := by
  unfold State.memRead
  split
  · exact List.mem_cons_self
  · next old olds hstale =>
    have hlt : Config.tornChoice s.draws % (olds.length + 2) < (s.tmemAt a :: old :: olds).length :=
      Nat.mod_lt _ (Nat.succ_pos _)
    rw [List.getD_eq_getElem _ _ hlt, hstale]
    exact List.getElem_mem hlt

theorem memRead_current_or_recorded (s : State) (a : Nat) :
    (s.memRead a).1 = s.tmemAt a ∨ (a, (s.memRead a).1) ∈ s.stale :=
  (List.mem_cons.1 (memRead_mem s a)).imp_right mem_staleAt.1

/-- Settles O60: the store adds to the record while BUSY = 1, every other step keeps it or ends the command, and a
read picks among the byte at the address and the recorded ones. -/
theorem changedByteReadsOldOrNew : Obligations.ChangedByteReadsOldOrNew := by
  refine ⟨fun s a b => ⟨_, step_tmemWrite a b s, rfl⟩, fun s t h hne => ?_, fun s a =>
    ⟨memRead_current_or_recorded s a, fun hno => ?_, ?_⟩⟩
  · obtain ⟨-, -, -, hstale⟩ | ⟨a, b, rest, hs, -⟩ := step_keepsMemory_or_store h
    · exact hstale
    · exact absurd (by rw [hs, List.head?_cons]) (hne a b)
  · exact (memRead_current_or_recorded s a).resolve_right (hno _)
  · obtain ⟨d, hd⟩ := memRead_frame s a
    rw [hd]

end Sys2Proof.Machine
end

section
/-! The encoding as a bijection between the well-formed commands and the words that decode
(spec/30_encoding.md R81 to R84), and the opcode table as the decoder's own partition of those words (R84). -/

namespace Sys2Proof

/-! ### The fields of a word and of a command (R81, R82) -/

theorem fieldOp_lt (w : Word) : fieldOp w < 256 := BitVec.isLt _

theorem fieldX_lt (w : Word) : fieldX w < 256 := BitVec.isLt _

theorem fieldY_lt (w : Word) : fieldY w < 65536 := BitVec.isLt _

theorem opOf_lt (i : Instr) : opOf i < 256 := by
  cases i with
  | sbget r n t => cases r <;> simp [opOf, roleBit]
  | sbset r n t v => cases r <;> cases v <;> simp [opOf, roleBit, valueBit]
  | _ => simp [opOf]

theorem wf_iff (i : Instr) : i.wf = true ↔ xOf i < 256 ∧ yOf i < 65536 := by
  cases i <;> simp [Instr.wf, fitsX, fitsY, xOf, yOf]

/-- The converse of `fields_of_decode`: the three fields determine the command. -/
theorem decode_of_fields {w : Word} {i : Instr} (hop : opOf i = fieldOp w) (hx : xOf i = fieldX w)
    (hy : yOf i = fieldY w) : decode w = .ok i := by
  unfold decode
  rw [← hop]
  cases i with
  | sbget r n t => cases r <;> simp [opOf, roleBit, formatXY, ← hx, ← hy, xOf, yOf]
  | sbset r n t v => cases r <;> cases v <;> simp [opOf, roleBit, valueBit, formatXY, ← hx, ← hy, xOf, yOf]
  | _ => simp [opOf, formatZ, formatX, formatY, formatXY, ← hx, ← hy, xOf, yOf]

/-- Settles O1: a command whose operands fit is packed field by field, and its fields determine it. -/
theorem decodeEncodeAgree : Obligations.DecodeEncodeAgree := by
  intro i hwf
  obtain ⟨hx, hy⟩ := (wf_iff i).1 hwf
  obtain ⟨hop, hx, hy⟩ := Laws.Fields.of_bounds (opOf_lt i) hx hy
  exact decode_of_fields hop.symm hx.symm hy.symm

/-- A decoded operand is a field of a word, so it fits (R82). -/
theorem wf_of_decode {w : Word} {i : Instr} (h : decode w = .ok i) : i.wf = true := by
  obtain ⟨-, hx, hy⟩ := fields_of_decode h
  rw [wf_iff, hx, hy]
  exact ⟨fieldX_lt w, fieldY_lt w⟩

/-- Settles O2: the command's fields are the word's. -/
theorem encodeDecodeAgree : Obligations.EncodeDecodeAgree :=
  fun _ _ h => ⟨wf_of_decode h, encode_of_decode h⟩

/-! ### Masks act field by field -/

theorem word_eq_iff {u v : Word} : u = v ↔ fieldOp u = fieldOp v ∧ fieldX u = fieldX v ∧ fieldY u = fieldY v := by
  refine ⟨fun h => h ▸ ⟨rfl, rfl, rfl⟩, fun ⟨hop, hx, hy⟩ => ?_⟩
  rw [← packWord_fields u, ← packWord_fields v, hop, hx, hy]

theorem fieldOp_and (w m : Word) : fieldOp (w &&& m) = fieldOp w &&& fieldOp m := by
  simp only [fieldOp, BitVec.extractLsb'_and, BitVec.toNat_and]

theorem fieldX_and (w m : Word) : fieldX (w &&& m) = fieldX w &&& fieldX m := by
  simp only [fieldX, BitVec.extractLsb'_and, BitVec.toNat_and]

theorem fieldY_and (w m : Word) : fieldY (w &&& m) = fieldY w &&& fieldY m := by
  simp only [fieldY, BitVec.extractLsb'_and, BitVec.toNat_and]

theorem and_eq_iff_fields {w m p : Word} : w &&& m = p ↔
    fieldOp w &&& fieldOp m = fieldOp p ∧ fieldX w &&& fieldX m = fieldX p ∧
      fieldY w &&& fieldY m = fieldY p := by
  rw [word_eq_iff, fieldOp_and, fieldX_and, fieldY_and]

/-- A field under a mask of ones is itself. -/
theorem and_ones_of_lt {a k : Nat} (h : a < 2 ^ k) : a &&& (2 ^ k - 1) = a := by
  rw [Nat.and_two_pow_sub_one_eq_mod, Nat.mod_eq_of_lt h]

theorem op_of_and_eq {w m p : Word} (h : w &&& m = p) (hm : fieldOp m = 2 ^ 8 - 1) : fieldOp w = fieldOp p := by
  rw [← (and_eq_iff_fields.1 h).1, hm, and_ones_of_lt (fieldOp_lt w)]

theorem x_of_and_eq {w m p : Word} (h : w &&& m = p) (hm : fieldX m = 2 ^ 8 - 1) : fieldX w = fieldX p := by
  rw [← (and_eq_iff_fields.1 h).2.1, hm, and_ones_of_lt (fieldX_lt w)]

theorem y_of_and_eq {w m p : Word} (h : w &&& m = p) (hm : fieldY m = 2 ^ 16 - 1) : fieldY w = fieldY p := by
  rw [← (and_eq_iff_fields.1 h).2.2, hm, and_ones_of_lt (fieldY_lt w)]

/-! ### The word that a row selects is decoded to the row's command

One lemma per format of R81; `p` is the row's `match`, the word of its command with every operand 0. -/

section Formats
variable {w p : Word}

theorem decode_of_maskZ {i : Instr} (h : w &&& 0xFFFFFFFF = p) (hp : decode p = .ok i) : decode w = .ok i := by
  rw [← hp, ← h]
  exact congrArg decode BitVec.and_allOnes.symm

theorem decode_of_maskX {f : Nat → Instr} (h : w &&& 0xFF00FFFF = p) (hp : decode p = .ok (f 0))
    (hf : ∀ x, opOf (f x) = opOf (f 0) ∧ xOf (f x) = x ∧ yOf (f x) = yOf (f 0)) :
    decode w = .ok (f (fieldX w)) := by
  obtain ⟨hop, -, hy⟩ := fields_of_decode hp
  obtain ⟨hfop, hfx, hfy⟩ := hf (fieldX w)
  rw [← op_of_and_eq h rfl] at hop
  rw [← y_of_and_eq h rfl] at hy
  exact decode_of_fields (hfop.trans hop) hfx (hfy.trans hy)

theorem decode_of_maskY {f : Nat → Instr} (h : w &&& 0xFFFF0000 = p) (hp : decode p = .ok (f 0))
    (hf : ∀ y, opOf (f y) = opOf (f 0) ∧ xOf (f y) = xOf (f 0) ∧ yOf (f y) = y) :
    decode w = .ok (f (fieldY w)) := by
  obtain ⟨hop, hx, -⟩ := fields_of_decode hp
  obtain ⟨hfop, hfx, hfy⟩ := hf (fieldY w)
  rw [← op_of_and_eq h rfl] at hop
  rw [← x_of_and_eq h rfl] at hx
  exact decode_of_fields (hfop.trans hop) (hfx.trans hx) hfy

theorem decode_of_maskXY {f : Nat → Nat → Instr} (h : w &&& 0xFF000000 = p) (hp : decode p = .ok (f 0 0))
    (hf : ∀ x y, opOf (f x y) = opOf (f 0 0) ∧ xOf (f x y) = x ∧ yOf (f x y) = y) :
    decode w = .ok (f (fieldX w) (fieldY w)) := by
  obtain ⟨hop, -, -⟩ := fields_of_decode hp
  obtain ⟨hfop, hfx, hfy⟩ := hf (fieldX w) (fieldY w)
  rw [← op_of_and_eq h rfl] at hop
  exact decode_of_fields (hfop.trans hop) hfx hfy

end Formats

/-- A mask that is all ones above bit `k` keeps what stands there. -/
theorem div_of_and_eq {a m p j : Nat} (k : Nat) (h : a &&& m = p) (ha : a / 2 ^ k < 2 ^ j)
    (hm : m / 2 ^ k = 2 ^ j - 1) : a / 2 ^ k = p / 2 ^ k := by
  rw [← h, Nat.and_div_two_pow, hm, and_ones_of_lt ha]

/-- SBGET's mask leaves the role bit of OP open (R81). -/
theorem decode_of_maskSbget {w : Word} (h : w &&& 0xFE000000 = 0x10000000) :
    ∃ r, decode w = .ok (.sbget r (fieldY w) (fieldX w)) := by
  have hlt := fieldOp_lt w
  have hhigh : fieldOp w / 2 ^ 1 = 0x10 / 2 ^ 1 :=
    div_of_and_eq (j := 7) 1 (and_eq_iff_fields.1 h).1 (by omega) rfl
  obtain hop | hop : fieldOp w = 0x10 ∨ fieldOp w = 0x11 := by omega
  · exact ⟨.A, decode_of_fields hop.symm rfl rfl⟩
  · exact ⟨.B, decode_of_fields hop.symm rfl rfl⟩

/-- SBSET's mask leaves the role bit and the value bit of OP open (R81). -/
theorem decode_of_maskSbset {w : Word} (h : w &&& 0xFC000000 = 0x14000000) :
    ∃ r v, decode w = .ok (.sbset r (fieldY w) (fieldX w) v) := by
  have hlt := fieldOp_lt w
  have hhigh : fieldOp w / 2 ^ 2 = 0x14 / 2 ^ 2 :=
    div_of_and_eq (j := 6) 2 (and_eq_iff_fields.1 h).1 (by omega) rfl
  obtain hop | hop | hop | hop :
      fieldOp w = 0x14 ∨ fieldOp w = 0x15 ∨ fieldOp w = 0x16 ∨ fieldOp w = 0x17 := by omega
  · exact ⟨.A, false, decode_of_fields hop.symm rfl rfl⟩
  · exact ⟨.B, false, decode_of_fields hop.symm rfl rfl⟩
  · exact ⟨.A, true, decode_of_fields hop.symm rfl rfl⟩
  · exact ⟨.B, true, decode_of_fields hop.symm rfl rfl⟩

theorem exists_decode_of_row {w : Word} {row : OpcodeRow} (hrow : row ∈ opcodeTable)
    (h : w &&& row.mask = row.pattern) : ∃ i, decode w = .ok i ∧ mnemonicOf i = row.mnemonic := by
  simp only [opcodeTable, List.mem_cons, List.not_mem_nil, or_false] at hrow
  obtain rfl | rfl | rfl | rfl | rfl | rfl | rfl | rfl | rfl | rfl | rfl | rfl | rfl | rfl | rfl | rfl | rfl | rfl |
    rfl | rfl | rfl | rfl | rfl | rfl | rfl := hrow
  · exact ⟨.nop, decode_of_maskZ h rfl, rfl⟩
  · exact ⟨.srst, decode_of_maskZ h rfl, rfl⟩
  · exact ⟨.init, decode_of_maskZ h rfl, rfl⟩
  · exact ⟨.zero, decode_of_maskZ h rfl, rfl⟩
  · exact ⟨.clrcnt, decode_of_maskZ h rfl, rfl⟩
  · exact ⟨.quant, decode_of_maskZ h rfl, rfl⟩
  · exact ⟨.dequant, decode_of_maskZ h rfl, rfl⟩
  · obtain ⟨r, hd⟩ := decode_of_maskSbget h
    exact ⟨_, hd, rfl⟩
  · obtain ⟨r, v, hd⟩ := decode_of_maskSbset h
    exact ⟨_, hd, rfl⟩
  · exact ⟨.swap, decode_of_maskZ h rfl, rfl⟩
  · exact ⟨_, decode_of_maskXY (f := .loadch) h rfl fun _ _ => ⟨rfl, rfl, rfl⟩, rfl⟩
  · exact ⟨.vclr, decode_of_maskZ h rfl, rfl⟩
  · exact ⟨_, decode_of_maskX (f := .vscale) h rfl fun _ => ⟨rfl, rfl, rfl⟩, rfl⟩
  · exact ⟨_, decode_of_maskX (f := .vadd) h rfl fun _ => ⟨rfl, rfl, rfl⟩, rfl⟩
  · exact ⟨_, decode_of_maskX (f := .vcmp) h rfl fun _ => ⟨rfl, rfl, rfl⟩, rfl⟩
  · exact ⟨_, decode_of_maskX (f := .vsubt) h rfl fun _ => ⟨rfl, rfl, rfl⟩, rfl⟩
  · exact ⟨_, decode_of_maskXY (f := .vpack) h rfl fun _ _ => ⟨rfl, rfl, rfl⟩, rfl⟩
  · exact ⟨_, decode_of_maskX (f := .vbias) h rfl fun _ => ⟨rfl, rfl, rfl⟩, rfl⟩
  · exact ⟨_, decode_of_maskXY (f := .evacc) h rfl fun _ _ => ⟨rfl, rfl, rfl⟩, rfl⟩
  · exact ⟨_, decode_of_maskXY (f := .accum) h rfl fun _ _ => ⟨rfl, rfl, rfl⟩, rfl⟩
  · exact ⟨_, decode_of_maskXY (f := .lifstep) h rfl fun _ _ => ⟨rfl, rfl, rfl⟩, rfl⟩
  · exact ⟨_, decode_of_maskX (f := .layer) h rfl fun _ => ⟨rfl, rfl, rfl⟩, rfl⟩
  · exact ⟨_, decode_of_maskX (f := .count) h rfl fun _ => ⟨rfl, rfl, rfl⟩, rfl⟩
  · exact ⟨.classify, decode_of_maskZ h rfl, rfl⟩
  · exact ⟨_, decode_of_maskY (f := .run) h rfl fun _ => ⟨rfl, rfl, rfl⟩, rfl⟩

/-! ### A decoded command's own row selects its word -/

/-- The row of a command in the table of R84. -/
def rowOf (i : Instr) : OpcodeRow :=
  match i with
  | .nop => opcodeTable[0]
  | .srst => opcodeTable[1]
  | .init => opcodeTable[2]
  | .zero => opcodeTable[3]
  | .clrcnt => opcodeTable[4]
  | .quant => opcodeTable[5]
  | .dequant => opcodeTable[6]
  | .sbget _ _ _ => opcodeTable[7]
  | .sbset _ _ _ _ => opcodeTable[8]
  | .swap => opcodeTable[9]
  | .loadch _ _ => opcodeTable[10]
  | .vclr => opcodeTable[11]
  | .vscale _ => opcodeTable[12]
  | .vadd _ => opcodeTable[13]
  | .vcmp _ => opcodeTable[14]
  | .vsubt _ => opcodeTable[15]
  | .vpack _ _ => opcodeTable[16]
  | .vbias _ => opcodeTable[17]
  | .evacc _ _ => opcodeTable[18]
  | .accum _ _ => opcodeTable[19]
  | .lifstep _ _ => opcodeTable[20]
  | .layer _ => opcodeTable[21]
  | .count _ => opcodeTable[22]
  | .classify => opcodeTable[23]
  | .run _ => opcodeTable[24]

theorem rowOf_mem (i : Instr) : rowOf i ∈ opcodeTable := by
  cases i <;> exact List.getElem_mem _

theorem rowOf_mnemonic (i : Instr) : (rowOf i).mnemonic = mnemonicOf i := by
  cases i <;> rfl

/-- The role bit and the value bit are not masked (R81). -/
theorem opOf_and_rowOf (i : Instr) : opOf i &&& fieldOp (rowOf i).mask = fieldOp (rowOf i).pattern := by
  cases i with
  | sbget r n t =>
    rw [opOf, rowOf]
    cases r <;> rfl
  | sbset r n t v =>
    rw [opOf, rowOf]
    cases r <;> cases v <;> rfl
  | _ =>
    rw [opOf, rowOf]
    rfl

/-- What a row does not mask, it does not match (R84). -/
theorem and_eq_of_zero (a : Nat) {m p : Nat} (hm : m = 0) (hp : p = 0) : a &&& m = p := by
  rw [hm, hp, Nat.and_zero]

/-- The X field is 0 or not masked (R81). -/
theorem xOf_and_rowOf (i : Instr) : xOf i &&& fieldX (rowOf i).mask = fieldX (rowOf i).pattern := by
  cases i with
  | sbget | sbset | loadch | vscale | vadd | vcmp | vsubt | vpack | vbias | evacc | accum | lifstep | layer | count =>
    rw [xOf, rowOf]
    exact and_eq_of_zero _ rfl rfl
  | _ =>
    rw [xOf, rowOf]
    rfl

/-- The Y field is 0 or not masked (R81). -/
theorem yOf_and_rowOf (i : Instr) : yOf i &&& fieldY (rowOf i).mask = fieldY (rowOf i).pattern := by
  cases i with
  | sbget | sbset | loadch | vpack | evacc | accum | lifstep | run =>
    rw [yOf, rowOf]
    exact and_eq_of_zero _ rfl rfl
  | _ =>
    rw [yOf, rowOf]
    rfl

theorem and_rowOf_of_decode {w : Word} {i : Instr} (h : decode w = .ok i) :
    w &&& (rowOf i).mask = (rowOf i).pattern := by
  obtain ⟨hop, hx, hy⟩ := fields_of_decode h
  rw [and_eq_iff_fields, ← hop, ← hx, ← hy]
  exact ⟨opOf_and_rowOf i, xOf_and_rowOf i, yOf_and_rowOf i⟩

theorem mnemonics_distinct : (opcodeTable.map OpcodeRow.mnemonic).Nodup := by decide

/-- A row selects a word iff the word decodes to the row's command (R84). -/
theorem row_selects_iff {w : Word} {row : OpcodeRow} (hrow : row ∈ opcodeTable) :
    w &&& row.mask = row.pattern ↔ ∃ i, decode w = .ok i ∧ mnemonicOf i = row.mnemonic := by
  refine ⟨exists_decode_of_row hrow, fun ⟨i, hd, hi⟩ => ?_⟩
  obtain rfl := List.inj_on_of_nodup_map mnemonics_distinct (rowOf_mem i) hrow ((rowOf_mnemonic i).trans hi)
  exact and_rowOf_of_decode hd

/-- Two rows that select one word are rows of the one command it decodes to. -/
theorem rows_disjoint {a b : OpcodeRow} (ha : a ∈ opcodeTable) (hb : b ∈ opcodeTable)
    (hne : a.mnemonic ≠ b.mnemonic) (w : Word) :
    ¬(w &&& a.mask = a.pattern ∧ w &&& b.mask = b.pattern) := by
  rintro ⟨hwa, hwb⟩
  obtain ⟨i, hi, hia⟩ := (row_selects_iff ha).1 hwa
  obtain ⟨j, hj, hjb⟩ := (row_selects_iff hb).1 hwb
  obtain rfl : i = j := Except.ok.inj (hi.symm.trans hj)
  exact hne (hia.symm.trans hjb)

/-! ### Field use (R84) -/

/-- Bit `24 + k` of a word is bit `k` of OP (R81). -/
theorem getLsbD_eq_testBit_fieldOp (w : Word) {k : Nat} (hk : k < 8) :
    w.getLsbD (24 + k) = (fieldOp w).testBit k := by
  rw [fieldOp, BitVec.testBit_toNat, BitVec.getLsbD_extractLsb', decide_eq_true hk, Bool.true_and]

theorem fieldUse_of_decode {w : Word} {i : Instr} (h : decode w = .ok i) : Machine.FieldUse w i := by
  obtain ⟨hop, hx, hy⟩ := fields_of_decode h
  have hrole : w.getLsbD 24 = (opOf i).testBit 0 := hop ▸ getLsbD_eq_testBit_fieldOp w (k := 0) (by decide)
  have hvalue : w.getLsbD 25 = (opOf i).testBit 1 := hop ▸ getLsbD_eq_testBit_fieldOp w (k := 1) (by decide)
  cases i with
  | sbget r n t =>
    refine ⟨?_, hx, hy⟩
    rw [hrole, opOf]
    cases r <;> rfl
  | sbset r n t v =>
    refine ⟨?_, ?_, hx, hy⟩
    · rw [hrole, opOf]
      cases r <;> cases v <;> rfl
    · rw [hvalue, opOf]
      cases r <;> cases v <;> rfl
  | nop | srst | init | zero | clrcnt | quant | dequant | swap | vclr | classify => trivial
  | vscale | vadd | vcmp | vsubt | vbias | layer | count => exact hx
  | run => exact hy
  | loadch | vpack | evacc | accum | lifstep => exact ⟨hx, hy⟩

/-- Settles O3: each row selects the words of its command, so a word two rows select has both mnemonics. -/
theorem opcodeTableIsDecoded : Obligations.OpcodeTableIsDecoded :=
  ⟨fun _ _ hrow => row_selects_iff hrow,
    fun _ i _ => ⟨rowOf i, rowOf_mem i, (rowOf_mnemonic i).symm⟩,
    (List.pairwise_map.1 mnemonics_distinct).imp_of_mem fun ha hb hne => rows_disjoint ha hb hne,
    fun _ _ => fieldUse_of_decode⟩

/-- Settles O5, by running the decoder on the fourteen words. -/
theorem sampleWordsDecode : Obligations.SampleWordsDecode := by
  unfold Obligations.SampleWordsDecode
  decide

end Sys2Proof

namespace Sys2Proof.Machine

/-- A listing line's word that decodes is its command, the input taken (R87). -/
theorem step_command {w : Word} {i : Instr} (h : decode w = .ok i) (s : State) :
    step (given (.command w) s) = exec i s := by
  have hfetch : fetch (given (.command w) s) = .run i s := by
    simp only [fetch, given, fetchInput, fetchCommand, h]
  rw [step, hfetch]

/-- Settles O6. -/
theorem stepRunsTheCommand : Obligations.StepRunsTheCommand :=
  fun s _ _ h => step_command h s

end Sys2Proof.Machine
end

section
/-! The codec (spec/40_codec.md R100 to R105): the machine's exact integers in units of 2^-149 are binary32 on the
rational numbers, the pattern of a code has the value `q / 128`, and both round trips. -/

namespace Sys2Proof.Machine

/-! ### QUANT and DEQUANT on an idle unit (R100, R101, R177) -/

theorem isNaN32_eq_false {w : Word} (h : (w.extractLsb' 23 8).toNat ≠ 255 ∨ w.extractLsb' 0 23 = 0) :
    isNaN32 w = false := by
  refine decide_eq_false fun ⟨he, hm⟩ => ?_
  obtain h | h := h
  · exact h he
  · exact hm (by rw [h]; rfl)

theorem isNaN32_eq_true {w : Word} (he : (w.extractLsb' 23 8).toNat = 255) (hm : w.extractLsb' 0 23 ≠ 0) :
    isNaN32 w = true :=
  decide_eq_true ⟨he, fun h => hm (BitVec.eq_of_toNat_eq h)⟩

section Idle

variable {s : State} (hs : Idle s)
include hs

/-- A command whose effects write CODEC_OUT only leaves `issued` with that word in it (R26, R89). -/
theorem finish_codecOut_latch (i : Instr) (w : Word) :
    finish { latch (encode i) s with regs.codecOut := w } = { issued i s with regs.codecOut := w } := by
  obtain ⟨hb, -⟩ := hs
  simp only [finish, latch, issued, ← hb]

/-- QUANT meets no check but its own (R89, R177). -/
theorem acceptError_quant (h : isNaN32 s.regs.codecIn = false) : acceptError .quant s = none :=
  (acceptError_eq_none _ _).2 ⟨.inl hs.2, nofun, nofun, rfl, rfl, by simp [lastChecks, h]⟩

theorem acceptError_quant_nan (h : isNaN32 s.regs.codecIn = true) :
    acceptError .quant s = some { kind := .nan, info := s.regs.codecIn } := by
  simp [acceptError, hs.2, needsConfigured, operandsInRange, sourceInRange, lastChecks, h]

theorem acceptError_dequant : acceptError .dequant s = none :=
  (acceptError_eq_none _ _).2 ⟨.inl hs.2, nofun, nofun, rfl, rfl, lastChecks_other (i := .dequant) nofun nofun s⟩

theorem exec_quant_nan (h : isNaN32 s.regs.codecIn = true) : exec .quant s = .next (refusedNan s) := by
  rw [exec_eq_issue, issue_refused hs.1 (acceptError_quant_nan hs h)]
  rfl

theorem exec_quant (h : isNaN32 s.regs.codecIn = false) :
    exec .quant s = .next { issued .quant s with
      regs.codecOut := BitVec.ofInt 32 (quantize (floatValue s.regs.codecIn)) } := by
  rw [exec_eq_issue, issue_accepted hs.1 (acceptError_quant hs h), ← finish_codecOut_latch hs]
  rfl

theorem exec_dequant :
    exec .dequant s = .next { issued .dequant s with
      regs.codecOut := floatOfCode (s.regs.codecIn.extractLsb' 0 8).toInt } := by
  rw [exec_eq_issue, issue_accepted hs.1 (acceptError_dequant hs), ← finish_codecOut_latch hs]
  rfl

end Idle

/-! ### Units of 2^-149 and rational numbers (R102, R103) -/

theorem floatValue_infinity {w : Word} (he : (w.extractLsb' 23 8).toNat = 255) (hm : w.extractLsb' 0 23 = 0) :
    floatValue w = .infinity (w.getLsbD 31) := by
  simp [floatValue, floatExp, floatFrac, floatSign, he, hm]

/-- The magnitude of a pattern, on naturals and on rationals (R102): `2^(e - 150)` is `2^(e - 1)` units. -/
theorem floatUnits_cast (w : Word) :
    (floatUnits w : ℚ) / 2 ^ 149 =
      if (w.extractLsb' 23 8).toNat = 0 then ((w.extractLsb' 0 23).toNat : ℚ) / 2 ^ 149
      else (2 ^ 23 + ((w.extractLsb' 0 23).toNat : ℚ)) * 2 ^ (w.extractLsb' 23 8).toNat / 2 ^ 150 := by
  unfold floatUnits floatExp floatFrac
  split
  · rfl
  · next h =>
    obtain ⟨e, he : _ = e + 1⟩ := Nat.exists_eq_succ_of_ne_zero h
    rw [he, Nat.add_sub_cancel]
    push_cast
    ring

/-- A pattern with an exponent below 255 is a whole number of units (R102). -/
theorem exists_floatValue_eq_finite {w : Word} (h : (w.extractLsb' 23 8).toNat ≠ 255) :
    ∃ u : ℤ, floatValue w = .finite u ∧ floatRat w = u / 2 ^ 149 := by
  refine ⟨_, if_neg h, ?_⟩
  rw [floatRat, ← floatUnits_cast, floatSign]
  split
  · push_cast
    ring
  · push_cast
    ring

theorem clampRat_units (u : ℤ) : clampRat (u / 2 ^ 149) = (clampUnits u : ℚ) / 2 ^ 149 := by
  have hlo : (u : ℚ) / 2 ^ 149 < -1 ↔ u < -unitOne := by
    rw [div_lt_iff₀ (by positivity), unitOne]
    exact_mod_cast Iff.rfl
  have hhi : (127 / 128 : ℚ) < u / 2 ^ 149 ↔ 127 * 2 ^ 142 < u := by
    rw [lt_div_iff₀ (by positivity), show (127 / 128 : ℚ) * 2 ^ 149 = 127 * 2 ^ 142 by norm_num]
    exact_mod_cast Iff.rfl
  simp only [clampRat, clampUnits, hlo, hhi]
  split
  · norm_num [unitOne]
  · split
    · norm_num
    · rfl

/-- `floor(y + 1/2)` of `y` units, on integers (R103). -/
theorem floor_units_add_half (y : ℤ) :
    ⌊(y : ℚ) / 2 ^ 149 + 1 / 2⌋ = (2 * y + unitOne) / (2 * unitOne) := by
  have h : (y : ℚ) / 2 ^ 149 + 1 / 2 = ((2 * y + unitOne : ℤ) : ℚ) / ((2 * 2 ^ 149 : ℕ) : ℚ) := by
    rw [unitOne]
    push_cast
    ring
  rw [h, Rat.floor_intCast_div_natCast, unitOne]
  norm_num

theorem roundRat_units (y : ℤ) : roundRat (y / 2 ^ 149) = roundUnits y := by
  have hpos : (0 : ℚ) ≤ y / 2 ^ 149 ↔ 0 ≤ y := by
    rw [le_div_iff₀ (by positivity), zero_mul]
    exact_mod_cast Iff.rfl
  have hneg : -((y : ℚ) / 2 ^ 149) = ((-y : ℤ) : ℚ) / 2 ^ 149 := by
    push_cast
    ring
  simp only [roundRat, roundUnits, hpos, hneg, floor_units_add_half]

/-- `quantize(x)` of R103 on a rational number. -/
def quantizeRat (x : ℚ) : ℤ := min 127 (max (-128) (roundRat (clampRat x * 128)))

theorem quantizeRat_units (u : ℤ) : quantizeRat (u / 2 ^ 149) = quantizeUnits u := by
  have h : (clampUnits u : ℚ) / 2 ^ 149 * 128 = ((clampUnits u * 128 : ℤ) : ℚ) / 2 ^ 149 := by
    push_cast
    ring
  rw [quantizeRat, clampRat_units, h, roundRat_units, quantizeUnits]

/-- The machine's `quantize` of a finite pattern is R103 on its value. -/
theorem quantize_floatValue {w : Word} (h : (w.extractLsb' 23 8).toNat ≠ 255) :
    quantize (floatValue w) = quantizeRat (floatRat w) := by
  obtain ⟨u, hv, hr⟩ := exists_floatValue_eq_finite h
  rw [hv, hr, quantizeRat_units, quantize]

theorem exec_quant_finite {s : State} (hs : Idle s) (h : (s.regs.codecIn.extractLsb' 23 8).toNat ≠ 255) :
    exec .quant s = .next { issued .quant s with
      regs.codecOut := BitVec.ofInt 32 (quantizeRat (floatRat s.regs.codecIn)) } := by
  rw [exec_quant hs (isNaN32_eq_false (.inl h)), quantize_floatValue h]

/-- Settles O26: a NaN, an infinity, or a whole number of units. -/
theorem quantClampsAndRounds : Obligations.QuantClampsAndRounds := by
  rintro s x hs rfl
  refine ⟨fun he hm => exec_quant_nan hs (isNaN32_eq_true he hm), fun he hm => ?_, exec_quant_finite hs⟩
  rw [exec_quant hs (isNaN32_eq_false (.inr hm)), floatValue_infinity he hm, quantize]
  cases s.regs.codecIn.getLsbD 31 <;> rfl

/-! ### The pattern of a code (R104) -/

section Pattern

variable {w : Word} {neg : Prop} [Decidable neg] {e m : ℕ} (he : e < 256) (hm : m < 2 ^ 23)
  (hw : w.toNat = (if neg then 2 ^ 31 else 0) + e * 2 ^ 23 + m)
include he hm hw

/-- The three fields of a pattern put together from them (R102). -/
theorem pattern_fields :
    w.getLsbD 31 = decide neg ∧ (w.extractLsb' 23 8).toNat = e ∧ (w.extractLsb' 0 23).toNat = m := by
  simp only [BitVec.getLsbD, BitVec.extractLsb'_toNat, Nat.testBit_eq_decide_div_mod_eq, Nat.shiftRight_eq_div_pow,
    hw, decide_eq_decide]
  split
  · next hneg => exact ⟨by simp only [hneg, iff_true]; omega, by omega, by omega⟩
  · next hneg => exact ⟨by simp only [hneg, iff_false]; omega, by omega, by omega⟩

theorem floatRat_pattern (h0 : e ≠ 0) :
    floatRat w = (if neg then -1 else 1) * ((2 ^ 23 + m) * 2 ^ e / 2 ^ 150) := by
  obtain ⟨hneg, he, hm⟩ := pattern_fields he hm hw
  simp only [floatRat, hneg, he, hm, if_neg h0, decide_eq_true_eq]

end Pattern

section Code

variable {q : ℤ} {p : ℕ} (hp : p ≤ 7) (hlo : 2 ^ p ≤ q.natAbs) (hhi : q.natAbs < 2 ^ (p + 1))
include hp hlo hhi

/-- The bits of `|q|` below its leading one fit the fraction field (R104). -/
theorem codeFraction_lt : (q.natAbs - 2 ^ p) * 2 ^ (23 - p) < 2 ^ 23 := by
  have hlt : q.natAbs - 2 ^ p < 2 ^ p := by
    rw [pow_succ] at hhi
    omega
  calc (q.natAbs - 2 ^ p) * 2 ^ (23 - p) < 2 ^ p * 2 ^ (23 - p) :=
        Nat.mul_lt_mul_of_pos_right hlt (by positivity)
    _ = 2 ^ 23 := by rw [← pow_add, Nat.add_sub_cancel' (by omega)]

theorem toNat_floatOfCode :
    (floatOfCode q).toNat =
      (if q < 0 then 2 ^ 31 else 0) + (120 + p) * 2 ^ 23 + (q.natAbs - 2 ^ p) * 2 ^ (23 - p) := by
  have hfrac := codeFraction_lt hp hlo hhi
  have habs : q.natAbs ≠ 0 := (Nat.two_pow_pos p).trans_le hlo |>.ne'
  have htop : topBit q.natAbs = p := (Nat.log2_eq_iff habs).2 ⟨hlo, hhi⟩
  rw [floatOfCode, if_neg (Int.natAbs_ne_zero.1 habs), htop, BitVec.toNat_ofNat, Nat.mod_eq_of_lt]
  split <;> omega

/-- The exponent field of a code's pattern is `120 + p`, and its value is `q / 128` (R104). -/
theorem floatOfCode_of_topBit :
    ((floatOfCode q).extractLsb' 23 8).toNat = 120 + p ∧ floatRat (floatOfCode q) = q / 128 := by
  have he : 120 + p < 256 := by omega
  have hfrac := codeFraction_lt hp hlo hhi
  have hw := toNat_floatOfCode hp hlo hhi
  refine ⟨(pattern_fields he hfrac hw).2.1, ?_⟩
  have hmag : (2 ^ 23 + (((q.natAbs - 2 ^ p) * 2 ^ (23 - p) : ℕ) : ℚ)) = q.natAbs * 2 ^ (23 - p) := by
    have h23 : (2 : ℚ) ^ 23 = 2 ^ p * 2 ^ (23 - p) := by rw [← pow_add, Nat.add_sub_cancel' (by omega)]
    rw [Nat.cast_mul, Nat.cast_sub hlo, h23]
    push_cast
    ring
  have hscale : (2 : ℚ) ^ (23 - p) * 2 ^ (120 + p) = 2 ^ 143 := by
    rw [← pow_add]
    congr 1
    omega
  have hsign : (if q < 0 then (-1 : ℚ) else 1) * (q.natAbs : ℚ) = q := by
    rw [Nat.cast_natAbs]
    split
    · next h => rw [abs_of_neg h]; push_cast; ring
    · next h => rw [abs_of_nonneg (not_lt.1 h), one_mul]
  calc floatRat (floatOfCode q)
      = (if q < 0 then -1 else 1) * (q.natAbs * 2 ^ (23 - p) * 2 ^ (120 + p) / 2 ^ 150) := by
        rw [floatRat_pattern he hfrac hw (by omega), hmag]
    _ = (if q < 0 then -1 else 1) * (q.natAbs : ℚ) * (2 ^ (23 - p) * 2 ^ (120 + p)) / 2 ^ 150 := by ring
    _ = q / 128 := by rw [hsign, hscale]; ring

end Code

/-- Every code's pattern is finite and has the value `q / 128` (R104). -/
theorem floatOfCode_spec {q : ℤ} (hq : q.natAbs ≤ 128) :
    ((floatOfCode q).extractLsb' 23 8).toNat ≠ 255 ∧ floatRat (floatOfCode q) = q / 128 := by
  by_cases h0 : q = 0
  · subst h0
    exact ⟨by decide, by simp [floatOfCode, floatRat]⟩
  · have habs : q.natAbs ≠ 0 := Int.natAbs_ne_zero.2 h0
    obtain ⟨hlo, hhi⟩ := (Nat.log2_eq_iff habs).1 rfl
    have hp : q.natAbs.log2 ≤ 7 := Nat.lt_succ_iff.1 ((Nat.log2_lt habs).2 (by omega))
    obtain ⟨he, hv⟩ := floatOfCode_of_topBit hp hlo hhi
    exact ⟨by omega, hv⟩

theorem natAbs_toInt_le (b : Byte) : b.toInt.natAbs ≤ 128 := by
  have hlo := BitVec.le_toInt b
  have hhi := BitVec.toInt_lt (x := b)
  omega

/-- Settles O27. -/
theorem dequantIsCodeOver128 : Obligations.DequantIsCodeOver128 := by
  rintro s q hs rfl
  obtain ⟨he, hv⟩ := floatOfCode_spec (natAbs_toInt_le (s.regs.codecIn.extractLsb' 0 8))
  exact ⟨_, exec_dequant hs, he, hv, fun h0 => by rw [h0]; rfl, fun p hp hlo hhi => toNat_floatOfCode hp hlo hhi⟩

/-! ### The round trips (R105) -/

/-- Rounding half away from zero moves a number by at most 1/2 (R103). -/
theorem abs_roundRat_sub_le (y : ℚ) : |(roundRat y : ℚ) - y| ≤ 1 / 2 := by
  have hfloor (z : ℚ) : |(⌊z + 1 / 2⌋ : ℚ) - z| ≤ 1 / 2 := by
    have hle := Int.floor_le (z + 1 / 2)
    have hlt := Int.lt_floor_add_one (z + 1 / 2)
    exact abs_le.2 ⟨by linarith, by linarith⟩
  unfold roundRat
  split
  · exact hfloor y
  · rw [Int.cast_neg, abs_sub_comm]
    simpa only [sub_neg_eq_add, add_comm] using hfloor (-y)

/-- A whole number rounds to itself. -/
theorem roundRat_intCast (q : ℤ) : roundRat q = q := by
  have h : |(roundRat q : ℚ) - q| < 1 := (abs_roundRat_sub_le q).trans_lt (by norm_num)
  exact sub_eq_zero.1 (Int.abs_lt_one_iff.1 (by exact_mod_cast h))

section InRange

variable {x : ℚ} (hlo : -1 ≤ x) (hhi : x ≤ 127 / 128)
include hlo hhi

/-- In the range of R105 neither clamp does anything. -/
theorem quantizeRat_of_mem : quantizeRat x = roundRat (x * 128) := by
  obtain ⟨hl, hr⟩ := abs_le.1 (abs_roundRat_sub_le (x * 128))
  have hmin : (-129 : ℤ) < roundRat (x * 128) := by
    have h : (-129 : ℚ) < roundRat (x * 128) := by linarith
    exact_mod_cast h
  have hmax : roundRat (x * 128) < 128 := by
    have h : (roundRat (x * 128) : ℚ) < 128 := by linarith
    exact_mod_cast h
  rw [quantizeRat, clampRat, if_neg (not_lt.2 hlo), if_neg (not_lt.2 hhi)]
  omega

/-- Half a quantization step (R105). -/
theorem abs_quantizeRat_div_sub_le : |(quantizeRat x : ℚ) / 128 - x| ≤ 1 / 256 := by
  obtain ⟨hl, hr⟩ := abs_le.1 (abs_roundRat_sub_le (x * 128))
  rw [quantizeRat_of_mem hlo hhi]
  exact abs_le.2 ⟨by linarith, by linarith⟩

end InRange

/-- The second clamp keeps every result a code (R103). -/
theorem quantizeRat_mem (x : ℚ) : -128 ≤ quantizeRat x ∧ quantizeRat x ≤ 127 := by
  unfold quantizeRat
  omega

/-- A code's own value quantizes to it (R105). -/
theorem quantizeRat_code {q : ℤ} (hlo : -128 ≤ q) (hhi : q ≤ 127) : quantizeRat (q / 128) = q := by
  have hlo' : (-128 : ℚ) ≤ q := by exact_mod_cast hlo
  have hhi' : (q : ℚ) ≤ 127 := by exact_mod_cast hhi
  rw [quantizeRat_of_mem (by linarith) (by linarith), div_mul_cancel₀ _ (by norm_num), roundRat_intCast]

/-- The low byte of a code in a register is the code (R100, R101). -/
theorem toInt_lowByte_ofInt {q : ℤ} (hlo : -128 ≤ q) (hhi : q ≤ 127) :
    ((BitVec.ofInt 32 q).extractLsb' 0 8).toInt = q := by
  rw [BitVec.toInt_eq_toNat_bmod, BitVec.extractLsb'_toNat, Nat.shiftRight_zero, BitVec.toNat_ofInt, Int.bmod_def]
  omega

/-- Settles O28: in range QUANT rounds by half a step, and a code's value is already a whole number of steps. -/
theorem codecRoundTrip : Obligations.CodecRoundTrip := by
  constructor
  · intro s hs he hlo hhi
    obtain ⟨hqlo, hqhi⟩ := quantizeRat_mem (floatRat s.regs.codecIn)
    have hcode := toInt_lowByte_ofInt hqlo hqhi
    have hvalue := (floatOfCode_spec (q := quantizeRat (floatRat s.regs.codecIn)) (by omega)).2
    refine ⟨_, _, exec_quant_finite hs he, exec_dequant hs, ?_⟩
    simp only [hcode, hvalue]
    exact abs_quantizeRat_div_sub_le hlo hhi
  · intro s hs
    have hq := natAbs_toInt_le (s.regs.codecIn.extractLsb' 0 8)
    have hhi := BitVec.toInt_lt (x := s.regs.codecIn.extractLsb' 0 8)
    obtain ⟨he, hv⟩ := floatOfCode_spec hq
    refine ⟨_, _, exec_dequant hs, exec_quant_finite hs he, ?_⟩
    simp only [hv]
    rw [quantizeRat_code (by omega) (by omega), BitVec.signExtend]

end Sys2Proof.Machine
end

section
/-! The spike-buffer commands (spec/41_spike_buffer.md R110 to R116): what each leaves on an idle unit, from the bit map
of `sb_set` and of the chunk load and the frame of an accepted command. -/

namespace Sys2Proof.Machine

/-! ### Roles (R112) -/

theorem roleBuf_eq_ite (s : State) (r : Role) :
    s.roleBuf r = if r = .A then s.regs.status.sel else otherBuf s.regs.status.sel := by
  cases r <;> rfl

theorem otherBuf_eq_ite (k : Buf) : otherBuf k = if k = .sb0 then .sb1 else .sb0 := by
  cases k <;> rfl

@[simp] theorem otherBuf_otherBuf (k : Buf) : otherBuf (otherBuf k) = k := by
  cases k <;> rfl

/-! ### Accepted commands on an idle unit (spec/30_encoding.md R89) -/

@[simp] theorem finish_sbGet (s : State) (k : Buf) (n t : Nat) : (finish s).sbGet k n t = s.sbGet k n t := rfl

theorem execAll_cons_of_next {i : Instr} {s t : State} (h : exec i s = .next t) (rest : List Instr) :
    execAll (i :: rest) s = execAll rest t := by
  rw [execAll, h]

section Idle

variable {s : State} (hs : Idle s)
include hs

/-- Acceptance and completion by themselves leave `issued`: effects that write other fields write them there. -/
theorem finish_latch (i : Instr) : finish (latch (encode i) s) = issued i s := by
  obtain ⟨hb, -⟩ := hs
  simp only [finish, latch, issued, ← hb]

/-- A command with no check of its own after step 5 passes when its CONFIGURED, operand and source checks do. -/
theorem acceptError_of_checks {i : Instr} (hq : i ≠ .quant) (hi : i ≠ .init)
    (hconf : needsConfigured i = true → s.regs.status.configured = true) (hrange : operandsInRange i s = true)
    (hsource : sourceInRange i s = true) : acceptError i s = none :=
  (acceptError_eq_none i s).2 ⟨.inl hs.2, fun h => absurd h hi, hconf, hrange, hsource, lastChecks_other hq hi s⟩

theorem exec_accepted {i : Instr} (hok : acceptError i s = none) :
    exec i s = .next (finish (effectOf i (latch (encode i) s))) := by
  rw [exec_eq_issue, issue_accepted hs.1 hok]

/-- An accepted command whose effects write the two buffers only leaves everything else as `issued` has it, and the
bits of both buffers as its effects leave them. -/
theorem exec_buffersOnly {i : Instr} (hok : acceptError i s = none)
    (hframe : ∃ b0 b1, effectOf i (latch (encode i) s) =
      { latch (encode i) s with arr.sb0 := b0, arr.sb1 := b1 }) :
    ∃ u, exec i s = .next u ∧ u = { issued i s with arr.sb0 := u.arr.sb0, arr.sb1 := u.arr.sb1 } ∧
      ∀ k n t, u.sbGet k n t = (effectOf i (latch (encode i) s)).sbGet k n t := by
  obtain ⟨b0, b1, heff⟩ := hframe
  refine ⟨_, exec_accepted hs hok, ?_, fun k n t => finish_sbGet _ k n t⟩
  rw [heff, ← finish_latch hs]
  rfl

/-! ### SBGET and SBSET (R113, R114) -/

theorem acceptError_sbget {n t : Nat} (ht : t < s.params.tau) (hn : n < s.params.maxNeurons) (r : Role) :
    acceptError (.sbget r n t) s = none :=
  acceptError_of_checks hs nofun nofun nofun (decide_eq_true ⟨ht, hn⟩) rfl

theorem acceptError_sbset {n t : Nat} (ht : t < s.params.tau) (hn : n < s.params.maxNeurons) (r : Role) (v : Bool) :
    acceptError (.sbset r n t v) s = none :=
  acceptError_of_checks hs nofun nofun nofun (decide_eq_true ⟨ht, hn⟩) rfl

theorem exec_sbget {n t : Nat} (ht : t < s.params.tau) (hn : n < s.params.maxNeurons) (r : Role) :
    exec (.sbget r n t) s = .next { issued (.sbget r n t) s with regs.bitres := s.sbGet (s.roleBuf r) n t } := by
  rw [exec_accepted hs (acceptError_sbget hs ht hn r), ← finish_latch hs]
  rfl

/-! ### SWAP (R115) -/

theorem acceptError_swap : acceptError .swap s = none :=
  acceptError_of_checks hs nofun nofun nofun rfl rfl

theorem exec_swap :
    exec .swap s = .next { issued .swap s with regs.status.sel := otherBuf s.regs.status.sel } := by
  rw [exec_accepted hs (acceptError_swap hs), ← finish_latch hs]
  rfl

end Idle

/-! ### LOADCH (R116, R178) -/

theorem acceptError_loadch {s : State} (hs : Ready s) {c k : Nat} (hc : c < s.params.nChunks)
    (hlast : loadchLastAddr c k s < 2 ^ 32) : acceptError (.loadch c k) s = none :=
  acceptError_of_checks hs.1 nofun nofun (fun _ => hs.2) (decide_eq_true hc) (decide_eq_true hlast)

/-! ### The statements -/

/-- Settles O29. -/
theorem sbgetReadsItsBit : Obligations.SbgetReadsItsBit := by
  intro s r n t hs ht hn
  rw [exec_sbget hs ht hn, State.sbGet, roleBuf_eq_ite]

/-- Settles O30: the frame and the bit map of one `sb_set` (R111), for the buffer in the role (R112). -/
theorem sbsetWritesItsBitOnly : Obligations.SbsetWritesItsBitOnly := by
  intro s r n t v hs ht hn
  obtain ⟨u, hexec, hu, hbits⟩ :=
    exec_buffersOnly hs (acceptError_sbset hs ht hn r v) (sbSet_frame _ (s.roleBuf r) n t v)
  refine ⟨u, hexec, hu, fun k n' t' => ?_⟩
  rw [hbits, ← roleBuf_eq_ite]
  exact sbSet_sbGet _ (s.roleBuf r) n t v k n' t'

/-- Settles O31: the second SWAP meets the idle state the first one leaves. -/
theorem swapTogglesTheRoles : Obligations.SwapTogglesTheRoles := by
  intro s hs
  have hfirst := exec_swap hs
  have hsecond := exec_swap (s := { issued .swap s with regs.status.sel := otherBuf s.regs.status.sel }) hs
  constructor
  · rw [hfirst, otherBuf_eq_ite]
  · exact ⟨_, (execAll_cons_of_next hfirst [.swap]).trans (execAll_cons_of_next hsecond []),
      otherBuf_otherBuf s.regs.status.sel⟩

/-- Settles O32: acceptance empties the record of replaced bytes, so the load reads TMEM as it stands (R63, R76). -/
theorem loadchCopiesSourceBits : Obligations.LoadchCopiesSourceBits := by
  intro s c k hs hc hlast
  obtain ⟨hframe, hload⟩ := loadch_spec (latch_stale (encode (.loadch c k)) s) c k
  obtain ⟨u, hexec, hu, hbits⟩ := exec_buffersOnly hs.1 (acceptError_loadch hs hc hlast) hframe
  exact ⟨u, hexec, hu, fun b n t => (hbits b n t).trans (hload b n t)⟩

end Sys2Proof.Machine
end

section
/-! The elementwise ALU commands (spec/42_alu.md R120 to R130): VSCALE, VADD and VSUBT share one rule, the lanes they
write and the wraps those lanes give; VCMP and VPACK rest on the flag and bit maps of their loops. -/

namespace Sys2Proof.Machine

/-! ### Lanes (R120 to R122) -/

theorem overflows_eq_not_fits32 (r : ℤ) : overflows r = !fits32 r := by
  rw [overflows, fits32, ← decide_not, decide_eq_decide]
  omega

section Lanes

variable {f : ℕ → Option (Word × Bool)} {w : ℕ → Prop} [DecidablePred w] {r : ℕ → ℤ}
  (hf : ∀ i, f i = if w i then some (wrap32 (r i), overflows (r i)) else none) (l n : ℕ) (s : State)
include hf

/-- Each lane that is written gets its exact result wrapped; the others keep their element. -/
theorem mapLanes_vAt (l' i : ℕ) :
    (mapLanes l n f s).vAt l' i = if l' = l ∧ i < n ∧ w i then wrap32 (r i) else s.vAt l' i := by
  rw [(mapLanes_spec l n f s).1, hf]
  by_cases hi : l' = l ∧ i < n
  · by_cases hw : w i <;> simp [hi, hw]
  · rw [if_neg hi, if_neg fun h => hi ⟨h.1, h.2.1⟩]

/-- OVF gathers the written lanes whose exact result does not fit. -/
theorem mapLanes_ovf : (mapLanes l n f s).regs.status.ovf =
    (s.regs.status.ovf || (List.range n).any (fun i => decide (w i) && !fits32 (r i))) := by
  rw [(mapLanes_spec l n f s).2]
  congr 2 with i
  rw [hf]
  by_cases hw : w i <;> simp [hw, overflows_eq_not_fits32]

/-- An accepted command whose effects are lanes of layer `l` changes V and OVF as the lanes say, and CMD. -/
theorem exec_lanes {s : State} (hs : Idle s) {i : Instr} (hok : acceptError i s = none)
    (heff : effectOf i (latch (encode i) s) = mapLanes l n f (latch (encode i) s)) :
    ∃ t, exec i s = .next t ∧
      t = { issued i s with
            arr.v := t.arr.v,
            regs.status.ovf := s.regs.status.ovf ||
              (List.range n).any (fun i => decide (w i) && !fits32 (r i)) } ∧
      ∀ l' i, t.vAt l' i = if l' = l ∧ i < n ∧ w i then wrap32 (r i) else s.vAt l' i := by
  refine ⟨_, exec_accepted hs hok, ?_, fun l' j => ?_⟩
  · obtain ⟨v, o, hframe⟩ := mapLanes_frame l n f (latch (encode i) s)
    have hovf := mapLanes_ovf hf l n (latch (encode i) s)
    rw [hframe] at hovf
    rw [heff, hframe, ← finish_latch hs, show o = _ from hovf]
    rfl
  · rw [heff]
    exact mapLanes_vAt hf l n (latch (encode i) s) l' j

end Lanes

/-- `exec_lanes` for a command that writes every lane. -/
theorem exec_allLanes {f : ℕ → Option (Word × Bool)} {r : ℕ → ℤ} (hf : ∀ i, f i = some (wrap32 (r i), overflows (r i)))
    (l n : ℕ) {s : State} (hs : Idle s) {i : Instr} (hok : acceptError i s = none)
    (heff : effectOf i (latch (encode i) s) = mapLanes l n f (latch (encode i) s)) :
    ∃ t, exec i s = .next t ∧
      t = { issued i s with
            arr.v := t.arr.v,
            regs.status.ovf := s.regs.status.ovf || (List.range n).any (fun i => !fits32 (r i)) } ∧
      ∀ l' i, t.vAt l' i = if l' = l ∧ i < n then wrap32 (r i) else s.vAt l' i := by
  have hwritten : ∀ i, f i = if True then some (wrap32 (r i), overflows (r i)) else none :=
    fun i => (hf i).trans (if_pos trivial).symm
  simpa using exec_lanes hwritten l n hs hok heff

/-- The lane of VSUBT as a condition on its flag and an exact difference (R129). -/
theorem vsubtLane_eq (s : State) (l i : ℕ) :
    vsubtLane s l i = if s.rfAt l i = 1 then
      some (wrap32 ((s.vAt l i).toInt - (s.thAt l i).toInt), overflows ((s.vAt l i).toInt - (s.thAt l i).toInt))
    else none := by
  rw [vsubtLane, add32, ← sub_eq_add_neg]

/-! ### The flags (R123) -/

theorem ofBool_cmpGe (v th : ℤ) : BitVec.ofBool (cmpGe v th) = if th ≤ v then 1 else 0 := by
  by_cases h : th ≤ v <;> simp [cmpGe, h]

/-! ### Acceptance (spec/30_encoding.md R89) -/

section Acceptance

variable {s : State} (hs : Ready s) {l : ℕ} (hl : l < s.nLayers)
include hs hl

theorem acceptError_vscale : acceptError (.vscale l) s = none :=
  acceptError_of_checks hs.1 nofun nofun (fun _ => hs.2) (decide_eq_true hl) rfl

theorem acceptError_vadd : acceptError (.vadd l) s = none :=
  acceptError_of_checks hs.1 nofun nofun (fun _ => hs.2) (decide_eq_true hl) rfl

theorem acceptError_vcmp : acceptError (.vcmp l) s = none :=
  acceptError_of_checks hs.1 nofun nofun (fun _ => hs.2) (decide_eq_true hl) rfl

theorem acceptError_vsubt : acceptError (.vsubt l) s = none :=
  acceptError_of_checks hs.1 nofun nofun (fun _ => hs.2) (decide_eq_true hl) rfl

theorem acceptError_vpack {t : ℕ} (ht : t < s.params.tau) : acceptError (.vpack l t) s = none :=
  acceptError_of_checks hs.1 nofun nofun (fun _ => hs.2) (decide_eq_true ⟨hl, ht⟩) rfl

end Acceptance

/-! ### The statements -/

/-- Settles O33: every lane is written with the exact product, scaled (R122). -/
theorem vscaleMultipliesByDecay : Obligations.VscaleMultipliesByDecay := by
  intro s l hs hl
  have hlane : ∀ i, vscaleLane s l i = some (scale32 (s.vAt l i).toInt (s.dkAt l i).toInt) := fun _ => rfl
  exact exec_allLanes hlane l (s.neurons l) hs.1 (acceptError_vscale hs hl) rfl

/-- Settles O34: every lane is written with the exact sum (R121). -/
theorem vaddAddsTheSums : Obligations.VaddAddsTheSums := by
  intro s l hs hl
  have hlane : ∀ i, vaddLane s l i = some (add32 (s.vAt l i).toInt (s.sumAt i).toInt) := fun _ => rfl
  exact exec_allLanes hlane l (s.neurons l) hs.1 (acceptError_vadd hs hl) rfl

/-- Settles O35: the frame and the flag map of VCMP's loop. -/
theorem vcmpComparesWithThreshold : Obligations.VcmpComparesWithThreshold := by
  intro s l hs hl
  refine ⟨_, exec_accepted hs.1 (acceptError_vcmp hs hl), ?_, fun l' i => ?_⟩
  · obtain ⟨m, hframe⟩ := vcmp_frame l (latch (encode (.vcmp l)) s)
    rw [effectOf, hframe, ← finish_latch hs.1]
    rfl
  · rw [← ofBool_cmpGe]
    exact vcmp_rfAt l (latch (encode (.vcmp l)) s) l' i

/-- Settles O36: the written lanes are those whose flag is set. -/
theorem vsubtSubtractsWhereFired : Obligations.VsubtSubtractsWhereFired := by
  intro s l hs hl
  exact exec_lanes (vsubtLane_eq s l) l (s.neurons l) hs.1 (acceptError_vsubt hs hl) rfl

/-- Settles O37: the bit map of VPACK's loop in buffer B, which after acceptance is still the buffer SEL does not
name (R112). -/
theorem vpackPacksTheFlags : Obligations.VpackPacksTheFlags := by
  intro s l t hs hl ht
  obtain ⟨u, hexec, hu, hbits⟩ := exec_buffersOnly hs.1 (acceptError_vpack hs hl ht) (vpack_frame l t _)
  exact ⟨u, hexec, hu, fun b n t' => (hbits b n t').trans (vpack_sbGet l t _ b n t')⟩

end Sys2Proof.Machine
end

section
/-! Event-driven accumulation (spec/43_accumulate.md R135 to R144): VBIAS sets accumulators, an event adds an integer to
each of them, and ACCUM is exact because every intermediate sum fits its register (R144).  The convolution rests on the
one-to-one map between the offsets an event reaches and the output positions. -/

namespace Sys2Proof.Machine

/-! ### Layer kinds (R39) -/

theorem kind_of_code_zero {s : State} {l : ℕ} (h : (s.desc l).kind = 0) : s.kind l = .input := by
  rw [State.kind, h]; rfl

theorem kind_of_code_one {s : State} {l : ℕ} (h : (s.desc l).kind = 1) : s.kind l = .conv := by
  rw [State.kind, h]; rfl

theorem kind_of_code_two {s : State} {l : ℕ} (h : (s.desc l).kind = 2) : s.kind l = .fullyConnected := by
  rw [State.kind, h]; rfl

/-! ### Results that fit a register (R121) -/

theorem fits32_toInt (x : Word) : fits32 x.toInt = true := decide_eq_true (toInt_word_bounds x)

theorem toInt_wrap32_of_fits32 {r : ℤ} (h : fits32 r = true) : (wrap32 r).toInt = r :=
  toInt_wrap32 (by rw [overflows_eq_not_fits32, h]; rfl)

theorem toInt_signExtend_byte (b : Byte) : (b.signExtend 32).toInt = b.toInt :=
  BitVec.toInt_signExtend_of_le (by norm_num)

theorem abs_toInt_byte_le (b : Byte) : |b.toInt| ≤ 128 := by
  have := toInt_byte_bounds b
  rw [abs_le]
  omega

/-- One bias and fewer than 2^17 weights (R40) fit an accumulator (R144). -/
theorem fits32_bias_add_sum {b : ℤ} {g : ℕ → ℤ} (hb : |b| ≤ 128) (hg : ∀ j, |g j| ≤ 128) {m : ℕ} (hm : m < 2 ^ 17) :
    fits32 (b + ∑ j ∈ Finset.range m, g j) = true := by
  have hsum : |∑ j ∈ Finset.range m, g j| ≤ m * 128 :=
    calc |∑ j ∈ Finset.range m, g j| ≤ ∑ j ∈ Finset.range m, |g j| := Finset.abs_sum_le_sum_abs ..
      _ ≤ ∑ _j ∈ Finset.range m, 128 := Finset.sum_le_sum fun j _ => hg j
      _ = m * 128 := by simp
  rw [abs_le] at hb hsum
  exact decide_eq_true (by omega)

/-! ### Effects on the accumulators -/

/-- From `s` to `t`, `SUM[i]` is set to `b i` for `i < n`, and nothing else changes. -/
structure SetsSums (n : ℕ) (b : ℕ → Word) (s t : State) : Prop where
  frame : ∃ m, t = { s with arr.sum := m }
  sumAt : ∀ i, t.sumAt i = if i < n then b i else s.sumAt i

/-- From `s` to `t`, the integer `c i` is added to every `SUM[i]` by one `add32` (R121), and nothing else changes. -/
structure AddsToSums (c : ℕ → ℤ) (s t : State) : Prop where
  frame : ∃ m o, t = { s with arr.sum := m, regs.status.ovf := o }
  sumAt : ∀ i, t.sumAt i = wrap32 ((s.sumAt i).toInt + c i)
  ovf : t.regs.status.ovf = true ↔ s.regs.status.ovf = true ∨ ∃ i, fits32 ((s.sumAt i).toInt + c i) = false

theorem AddsToSums.zero (s : State) : AddsToSums (fun _ => 0) s s where
  frame := ⟨s.arr.sum, s.regs.status.ovf, rfl⟩
  sumAt i := by rw [add_zero, wrap32_toInt_self]
  ovf := by simp [fits32_toInt]

/-- Additions that all fit are exact and leave OVF alone. -/
theorem AddsToSums.exact {c : ℕ → ℤ} {s t : State} (h : AddsToSums c s t)
    (hfit : ∀ i, fits32 ((s.sumAt i).toInt + c i) = true) :
    (∃ m, t = { s with arr.sum := m }) ∧ ∀ i, (t.sumAt i).toInt = (s.sumAt i).toInt + c i := by
  obtain ⟨⟨m, o, rfl⟩, hsum, hovf⟩ := h
  have ho : o = s.regs.status.ovf := Bool.eq_iff_iff.2 (by simpa [hfit] using hovf)
  exact ⟨⟨m, by rw [ho]⟩, fun i => by rw [hsum, toInt_wrap32_of_fits32 (hfit i)]⟩

/-- An addition wraps somewhere exactly when one of the accumulators that gains something wraps. -/
theorem exists_not_fits32_ite (s : State) (w : ℕ → Prop) [DecidablePred w] (x : ℕ → ℤ) :
    (∃ i, fits32 ((s.sumAt i).toInt + if w i then x i else 0) = false) ↔
      ∃ i, w i ∧ fits32 ((s.sumAt i).toInt + x i) = false := by
  refine exists_congr fun i => ?_
  by_cases h : w i <;> simp [h, fits32_toInt]

theorem addSum_adds (j : ℕ) (x : ℤ) (s : State) : AddsToSums (fun i => if i = j then x else 0) s (addSum j x s) where
  frame := addSum_frame j x s
  sumAt i := by
    rw [addSum_sumAt]
    by_cases h : i = j <;> simp [h, wrap32_toInt_self]
  ovf := by
    rw [exists_not_fits32_ite s (· = j) (fun _ => x), addSum_ovf, overflows_eq_not_fits32]
    simp

/-! ### Sums over targets -/

theorem targetSum_of_notMem (s : State) {ts : List (ℕ × ℕ)} {i : ℕ} (h : ∀ p ∈ ts, p.1 ≠ i) :
    targetSum s ts i = 0 := by
  have hnone : ts.filter (fun p => decide (p.1 = i)) = [] := List.filter_eq_nil_iff.2 (by simpa using h)
  rw [targetSum, hnone]
  rfl

section Targets

variable {ts : List (ℕ × ℕ)} (hd : (ts.map Prod.fst).Nodup)
include hd

/-- Where the accumulators are distinct, each gains the byte of its one target. -/
theorem targetSum_of_mem (s : State) {p : ℕ × ℕ} (hp : p ∈ ts) : targetSum s ts p.1 = (s.tmemAt p.2).toInt := by
  induction ts with
  | nil => cases hp
  | cons q ts ih =>
    rw [List.map_cons, List.nodup_cons] at hd
    obtain ⟨hq, hd⟩ := hd
    have hne : ∀ r ∈ ts, r.1 ≠ q.1 := fun r hr e => hq (e ▸ List.mem_map_of_mem hr)
    rw [targetSum_cons]
    rcases List.mem_cons.1 hp with rfl | hp
    · rw [if_pos rfl, targetSum_of_notMem s hne, add_zero]
    · rw [if_neg (hne p hp).symm, ih hd hp, zero_add]

theorem exists_not_fits32_targetSum (s : State) :
    (∃ i, fits32 ((s.sumAt i).toInt + targetSum s ts i) = false) ↔
      ∃ p ∈ ts, fits32 ((s.sumAt p.1).toInt + (s.tmemAt p.2).toInt) = false := by
  constructor
  · rintro ⟨i, hi⟩
    by_cases h : ∃ p ∈ ts, p.1 = i
    · obtain ⟨p, hp, rfl⟩ := h
      exact ⟨p, hp, by rwa [targetSum_of_mem hd s hp] at hi⟩
    · rw [targetSum_of_notMem s fun p hp e => h ⟨p, hp, e⟩, add_zero, fits32_toInt] at hi
      cases hi
  · rintro ⟨p, hp, hfit⟩
    exact ⟨p.1, by rwa [targetSum_of_mem hd s hp]⟩

theorem abs_targetSum_le (s : State) (i : ℕ) : |targetSum s ts i| ≤ 128 := by
  by_cases h : ∃ p ∈ ts, p.1 = i
  · obtain ⟨p, hp, rfl⟩ := h
    rw [targetSum_of_mem hd s hp]
    exact abs_toInt_byte_le _
  · rw [targetSum_of_notMem s fun p hp e => h ⟨p, hp, e⟩]
    norm_num

theorem accumulateSums_adds {s : State} (h : s.stale = []) : AddsToSums (targetSum s ts) s (accumulateSums ts s) where
  frame := accumulateSums_stable h ts
  sumAt := accumulateSums_sumAt h ts
  ovf := by
    rw [accumulateSums_ovf_nodup h hd, exists_not_fits32_targetSum hd]
    simp [overflows_eq_not_fits32]

end Targets

theorem fcTargets_nodup (s : State) (l j : ℕ) : ((s.fcTargets l j).map Prod.fst).Nodup := by
  simp [State.fcTargets, Function.comp_def, List.nodup_range]

/-- Event `j` gives each neuron of a FullyConnected layer its weight (R139). -/
theorem targetSum_fcTargets (s : State) (l j i : ℕ) :
    targetSum s (s.fcTargets l j) i = if i < s.neurons l then (s.tmemAt (s.fcWeightAddr l i j)).toInt else 0 := by
  by_cases h : i < s.neurons l
  · rw [if_pos h]
    exact targetSum_of_mem (fcTargets_nodup s l j) s (p := (i, s.fcWeightAddr l i j))
      (List.mem_map_of_mem (List.mem_range.2 h))
  · rw [if_neg h]
    refine targetSum_of_notMem s fun p hp e => h ?_
    obtain ⟨i', hi', rfl⟩ := List.mem_map.1 hp
    exact e ▸ List.mem_range.1 hi'

/-! ### Output positions of a convolution (R140) -/

theorem row_col_div_mod {o x : ℕ} (a : ℕ) (hx : x < o) : (a * o + x) / o = a ∧ (a * o + x) % o = x :=
  (Nat.div_mod_unique (by omega)).2 ⟨by ring, hx⟩

theorem row_col_inj {o a b x y : ℕ} (hx : x < o) (hy : y < o) (h : a * o + x = b * o + y) : a = b ∧ x = y := by
  obtain ⟨hdiv, hmod⟩ := row_col_div_mod a hx
  obtain ⟨hdiv', hmod'⟩ := row_col_div_mod b hy
  rw [h] at hdiv hmod
  exact ⟨hdiv.symm.trans hdiv', hmod.symm.trans hmod'⟩

/-- The neuron of filter `f` at output position `(y, x)` determines all three. -/
theorem position_inj {o f y x f' y' x' : ℕ} (hy : y < o) (hx : x < o) (hy' : y' < o) (hx' : x' < o)
    (h : f * o ^ 2 + y * o + x = f' * o ^ 2 + y' * o + x') : f = f' ∧ y = y' ∧ x = x' := by
  have hrow : (f * o + y) * o + x = (f' * o + y') * o + x' := by linarith
  obtain ⟨hfy, rfl⟩ := row_col_inj hx hx' hrow
  obtain ⟨rfl, rfl⟩ := row_col_inj hy hy' hfy
  exact ⟨rfl, rfl, rfl⟩

/-- A neuron belongs to the filter its number divided by the plane gives (R136). -/
theorem position_div {o y x : ℕ} (f : ℕ) (hy : y < o) (hx : x < o) : (f * o ^ 2 + y * o + x) / o ^ 2 = f := by
  have hplane : y * o + x < o ^ 2 := by nlinarith
  rw [add_assoc]
  exact (row_col_div_mod f hplane).1

theorem position_lt {o F f y x : ℕ} (hf : f < F) (hy : y < o) (hx : x < o) : f * o ^ 2 + y * o + x < F * o ^ 2 := by
  rw [← Nat.div_lt_iff_lt_mul (pow_pos (by omega) 2), position_div f hy hx]
  exact hf

theorem nodup_flatMap_of_disjoint {α β : Type} {l : List α} {g : α → List β} (hl : l.Nodup)
    (hg : ∀ a, (g a).Nodup) (hdisj : ∀ a a' b, b ∈ g a → b ∈ g a' → a = a') : (l.flatMap g).Nodup :=
  List.nodup_flatMap.2 ⟨fun a _ => hg a, hl.imp fun hne b hb hb' => hne (hdisj _ _ b hb hb')⟩

section Conv

variable (s : State) (l j : ℕ)

/-- The kernel offset of event `j` at output position `(y, x)` lies in the kernel. -/
abbrev State.reaches (y x : ℕ) : Prop :=
  y ≤ j / s.inSide l ∧ j / s.inSide l - y < s.kSide l ∧ x ≤ j % s.inSide l ∧ j % s.inSide l - x < s.kSide l

theorem convHits_iff (ky kx : ℕ) : s.convHits l j ky kx = true ↔
    ky ≤ j / s.inSide l ∧ j / s.inSide l - ky < s.outSide l ∧
      kx ≤ j % s.inSide l ∧ j % s.inSide l - kx < s.outSide l := decide_eq_true_iff

theorem convNeuron_eq (ky kx f : ℕ) : s.convNeuron l j ky kx f =
    f * s.outSide l ^ 2 + (j / s.inSide l - ky) * s.outSide l + (j % s.inSide l - kx) := by
  rw [State.convNeuron, State.plane, sq]

/-- Two additions of one event never meet in an accumulator. -/
theorem convNeuron_inj {ky kx f ky' kx' f' : ℕ} (h : s.convHits l j ky kx = true)
    (h' : s.convHits l j ky' kx' = true) (he : s.convNeuron l j ky kx f = s.convNeuron l j ky' kx' f') :
    ky = ky' ∧ kx = kx' ∧ f = f' := by
  obtain ⟨hky, hy, hkx, hx⟩ := (convHits_iff s l j ky kx).1 h
  obtain ⟨hky', hy', hkx', hx'⟩ := (convHits_iff s l j ky' kx').1 h'
  rw [convNeuron_eq, convNeuron_eq] at he
  obtain ⟨hf, hyy, hxx⟩ := position_inj hy hx hy' hx' he
  omega

/-- The targets of a Conv event by kernel offset, as R140 lists them. -/
theorem mem_convTargets {p : ℕ × ℕ} : p ∈ s.convTargets l j ↔
    ∃ ky < s.kSide l, ∃ kx < s.kSide l, s.convHits l j ky kx = true ∧
      ∃ f < s.filters l, (s.convNeuron l j ky kx f, s.convWeightAddr l ky kx f) = p := by
  simp only [State.convTargets, List.mem_flatMap, List.mem_range, List.mem_ite_nil_right, List.mem_map]

/-- The targets of a Conv event by output position. -/
theorem mem_convTargets_iff_position {p : ℕ × ℕ} : p ∈ s.convTargets l j ↔
    ∃ f < s.filters l, ∃ y < s.outSide l, ∃ x < s.outSide l, s.reaches l j y x ∧
      (f * s.outSide l ^ 2 + y * s.outSide l + x,
        s.convWeightAddr l (j / s.inSide l - y) (j % s.inSide l - x) f) = p := by
  rw [mem_convTargets]
  constructor
  · rintro ⟨ky, hky, kx, hkx, hhit, f, hf, rfl⟩
    obtain ⟨hky0, hy, hkx0, hx⟩ := (convHits_iff s l j ky kx).1 hhit
    refine ⟨f, hf, _, hy, _, hx, by unfold State.reaches; omega, ?_⟩
    rw [convNeuron_eq, Nat.sub_sub_self hky0, Nat.sub_sub_self hkx0]
  · rintro ⟨f, hf, y, hy, x, hx, ⟨hy0, hky, hx0, hkx⟩, rfl⟩
    refine ⟨_, hky, _, hkx, (convHits_iff s l j _ _).2 (by omega), f, hf, ?_⟩
    rw [convNeuron_eq, Nat.sub_sub_self hy0, Nat.sub_sub_self hx0]

/-- The accumulators that one kernel offset of event `j` adds to. -/
def State.offsetNeurons (ky kx : ℕ) : List ℕ :=
  if s.convHits l j ky kx then (List.range (s.filters l)).map (s.convNeuron l j ky kx) else []

theorem convTargets_map_fst : (s.convTargets l j).map Prod.fst =
    (List.range (s.kSide l)).flatMap fun ky => (List.range (s.kSide l)).flatMap fun kx => s.offsetNeurons l j ky kx := by
  simp only [State.convTargets, State.offsetNeurons, List.map_flatMap, apply_ite (List.map Prod.fst), List.map_map,
    Function.comp_def, List.map_nil]

theorem mem_offsetNeurons {ky kx i : ℕ} : i ∈ s.offsetNeurons l j ky kx ↔
    s.convHits l j ky kx = true ∧ ∃ f < s.filters l, s.convNeuron l j ky kx f = i := by
  simp only [State.offsetNeurons, List.mem_ite_nil_right, List.mem_map, List.mem_range]

theorem offsetNeurons_nodup (ky kx : ℕ) : (s.offsetNeurons l j ky kx).Nodup := by
  unfold State.offsetNeurons
  split
  case isTrue hhit => exact List.nodup_range.map fun f f' e => (convNeuron_inj s l j hhit hhit e).2.2
  case isFalse => exact List.nodup_nil

/-- Different offsets of one event add to different accumulators. -/
theorem offsetNeurons_disjoint {ky kx ky' kx' i : ℕ} (h : i ∈ s.offsetNeurons l j ky kx)
    (h' : i ∈ s.offsetNeurons l j ky' kx') : ky = ky' ∧ kx = kx' := by
  obtain ⟨hhit, f, -, hf⟩ := (mem_offsetNeurons s l j).1 h
  obtain ⟨hhit', f', -, hf'⟩ := (mem_offsetNeurons s l j).1 h'
  obtain ⟨hky, hkx, -⟩ := convNeuron_inj s l j hhit hhit' (hf.trans hf'.symm)
  exact ⟨hky, hkx⟩

theorem convTargets_nodup : ((s.convTargets l j).map Prod.fst).Nodup := by
  rw [convTargets_map_fst]
  refine nodup_flatMap_of_disjoint List.nodup_range (fun ky => ?_) fun ky ky' i hi hi' => ?_
  · exact nodup_flatMap_of_disjoint List.nodup_range (offsetNeurons_nodup s l j ky)
      fun kx kx' i hi hi' => (offsetNeurons_disjoint s l j hi hi').2
  · obtain ⟨kx, -, hi⟩ := List.mem_flatMap.1 hi
    obtain ⟨kx', -, hi'⟩ := List.mem_flatMap.1 hi'
    exact (offsetNeurons_disjoint s l j hi hi').1

/-- Event `j` gives the neuron at output position `(y, x)` of filter `f` the weight of its offset there, if any. -/
theorem targetSum_convTargets {f y x : ℕ} (hf : f < s.filters l) (hy : y < s.outSide l) (hx : x < s.outSide l) :
    targetSum s (s.convTargets l j) (f * s.outSide l ^ 2 + y * s.outSide l + x) =
      if s.reaches l j y x then
        (s.tmemAt (s.convWeightAddr l (j / s.inSide l - y) (j % s.inSide l - x) f)).toInt
      else 0 := by
  by_cases h : s.reaches l j y x
  · rw [if_pos h]
    exact targetSum_of_mem (convTargets_nodup s l j) s
      ((mem_convTargets_iff_position s l j).2 ⟨f, hf, y, hy, x, hx, h, rfl⟩)
  · rw [if_neg h]
    refine targetSum_of_notMem s fun p hp e => h ?_
    obtain ⟨f', -, y', hy', x', hx', h', rfl⟩ := (mem_convTargets_iff_position s l j).1 hp
    obtain ⟨-, rfl, rfl⟩ := position_inj hy' hx' hy hx e
    exact h'

/-- No event reaches an accumulator past the last filter's plane. -/
theorem targetSum_convTargets_of_le {i : ℕ} (hi : s.filters l * s.outSide l ^ 2 ≤ i) :
    targetSum s (s.convTargets l j) i = 0 := by
  refine targetSum_of_notMem s fun p hp e => ?_
  obtain ⟨f, hf, y, hy, x, hx, -, rfl⟩ := (mem_convTargets_iff_position s l j).1 hp
  exact absurd (position_lt hf hy hx) (not_lt.2 (hi.trans_eq e.symm))

end Conv

/-- The events that reach output position `(y, x)` are the pixels under the kernel there: the sum over events is the
sum over kernel offsets (R142). -/
theorem sum_events_eq_sum_offsets {size k o y x : ℕ} (ho : o = size - k + 1) (hk : k ≤ size) (hy : y < o) (hx : x < o)
    (bit : ℕ → Prop) [DecidablePred bit] (w : ℕ → ℕ → ℤ) :
    (∑ j ∈ Finset.range (size * size), if bit j then
        (if y ≤ j / size ∧ j / size - y < k ∧ x ≤ j % size ∧ j % size - x < k then w (j / size - y) (j % size - x)
          else 0)
      else 0) =
    ∑ ky ∈ Finset.range k, ∑ kx ∈ Finset.range k, if bit ((y + ky) * size + (x + kx)) then w ky kx else 0 := by
  rw [← Finset.sum_product']
  symm
  refine Finset.sum_of_injOn (fun p => (y + p.1) * size + (x + p.2)) ?_ ?_ ?_ ?_
  · rintro ⟨ky, kx⟩ hp ⟨ky', kx'⟩ hp' he
    simp only [Finset.coe_product, Finset.coe_range, Set.mem_prod, Set.mem_Iio] at hp hp'
    have := row_col_inj (by omega) (by omega) he
    exact Prod.ext (by omega) (by omega)
  · rintro ⟨ky, kx⟩ hp
    simp only [Finset.coe_product, Finset.coe_range, Set.mem_prod, Set.mem_Iio] at hp ⊢
    have hrow : y + ky + 1 ≤ size := by omega
    have hcol : x + kx < size := by omega
    nlinarith [Nat.mul_le_mul_right size hrow]
  · intro j _ hj
    by_cases h : y ≤ j / size ∧ j / size - y < k ∧ x ≤ j % size ∧ j % size - x < k
    · obtain ⟨hy0, hky, hx0, hkx⟩ := h
      refine absurd ⟨(j / size - y, j % size - x), by simp [hky, hkx], ?_⟩ hj
      simp only [Nat.add_sub_cancel' hy0, Nat.add_sub_cancel' hx0, Nat.div_add_mod']
    · rw [if_neg h, ite_self]
  · rintro ⟨ky, kx⟩ hp
    simp only [Finset.mem_product, Finset.mem_range] at hp
    obtain ⟨hdiv, hmod⟩ := row_col_div_mod (o := size) (x := x + kx) (y + ky) (by omega)
    simp [hdiv, hmod, hp]

/-! ### VBIAS (R136) -/

/-- What VBIAS writes to `SUM[i]`, by the kind of the layer; the reserved kind writes nothing (log entry 7). -/
def State.vbiasWord (s : State) (l : ℕ) : ℕ → Word :=
  match s.kind l with
  | .input => fun _ => 0
  | .fullyConnected => fun i => (s.tmemAt (s.fcBiasAddr l i)).signExtend 32
  | .conv => fun i => (s.tmemAt (s.convBiasAddr l (i / s.plane l))).signExtend 32
  | .reserved => s.sumAt

section Kinds

variable {s : State} {l : ℕ}

theorem vbiasWord_input (h : s.kind l = .input) (i : ℕ) : s.vbiasWord l i = 0 := by
  rw [State.vbiasWord, h]

theorem toInt_vbiasWord_input (h : s.kind l = .input) (i : ℕ) : (s.vbiasWord l i).toInt = 0 := by
  rw [vbiasWord_input h]; rfl

theorem vbiasWord_fullyConnected (h : s.kind l = .fullyConnected) (i : ℕ) :
    s.vbiasWord l i = (s.tmemAt (s.fcBiasAddr l i)).signExtend 32 := by
  rw [State.vbiasWord, h]

theorem vbiasWord_conv (h : s.kind l = .conv) (i : ℕ) :
    s.vbiasWord l i = (s.tmemAt (s.convBiasAddr l (i / s.outSide l ^ 2))).signExtend 32 := by
  rw [State.vbiasWord, h, sq]
  rfl

end Kinds

theorem foldl_setSum_zero (n : ℕ) (s : State) :
    SetsSums n (fun _ => 0) s ((List.range n).foldl (fun s i => s.setSum i 0) s) := by
  induction n with
  | zero => exact ⟨⟨s.arr.sum, rfl⟩, by simp⟩
  | succ n ih =>
    obtain ⟨⟨m, hm⟩, ihsum⟩ := ih
    rw [List.range_succ, List.foldl_append]
    refine ⟨by rw [hm]; exact ⟨_, rfl⟩, fun i => ?_⟩
    rw [List.foldl_cons, List.foldl_nil, setSum_sumAt, ihsum]
    by_cases hi : i = n
    · simp [hi]
    · have : i < n + 1 ↔ i < n := by omega
      simp [hi, this]

theorem vbias_sets {s : State} (h : s.stale = []) (l : ℕ) :
    SetsSums (s.neurons l) (s.vbiasWord l) s (vbiasEffect l s) := by
  unfold vbiasEffect State.vbiasWord
  cases s.kind l with
  | input => exact foldl_setSum_zero (s.neurons l) s
  | fullyConnected => exact ⟨loadSums_stable h _, loadSums_range h (s.fcBiasAddr l) _⟩
  | conv => exact ⟨loadSums_stable h _, loadSums_range h (fun i => s.convBiasAddr l (i / s.plane l)) _⟩
  | reserved => exact ⟨⟨s.arr.sum, rfl⟩, fun i => (ite_self _).symm⟩

/-! ### EVACC (R137 to R140) -/

/-- What event `j` adds to `SUM[i]`, by the kind of the layer; the reserved kind adds nothing (log entry 7). -/
def State.eventWeight (s : State) (l j : ℕ) : ℕ → ℤ :=
  match s.kind l with
  | .input => fun i => if i = j then s.params.oneSpike.toInt else 0
  | .fullyConnected => targetSum s (s.fcTargets l j)
  | .conv => targetSum s (s.convTargets l j)
  | .reserved => fun _ => 0

theorem evacc_adds {s : State} (h : s.stale = []) (l j : ℕ) :
    AddsToSums (s.eventWeight l j) s (evaccEffect l j s) := by
  unfold evaccEffect State.eventWeight
  cases s.kind l with
  | input => exact addSum_adds j _ s
  | fullyConnected => exact accumulateSums_adds (fcTargets_nodup s l j) h
  | conv => exact accumulateSums_adds (convTargets_nodup s l j) h
  | reserved => exact AddsToSums.zero s

section Kinds

variable {s : State} {l : ℕ}

theorem eventWeight_input (h : s.kind l = .input) (j i : ℕ) :
    s.eventWeight l j i = if i = j then s.params.oneSpike.toInt else 0 := by
  rw [State.eventWeight, h]

theorem eventWeight_fullyConnected (h : s.kind l = .fullyConnected) (j i : ℕ) :
    s.eventWeight l j i = if i < s.neurons l then (s.tmemAt (s.fcWeightAddr l i j)).toInt else 0 := by
  rw [State.eventWeight, h]
  exact targetSum_fcTargets s l j i

theorem eventWeight_conv (h : s.kind l = .conv) (j : ℕ) :
    s.eventWeight l j = targetSum s (s.convTargets l j) := by
  rw [State.eventWeight, h]

/-- On a layer with weights an event adds at most one weight to an accumulator. -/
theorem abs_eventWeight_le (h : s.kind l ≠ .input) (j i : ℕ) : |s.eventWeight l j i| ≤ 128 := by
  unfold State.eventWeight
  cases hk : s.kind l with
  | input => exact absurd hk h
  | fullyConnected => exact abs_targetSum_le (fcTargets_nodup s l j) s i
  | conv => exact abs_targetSum_le (convTargets_nodup s l j) s i
  | reserved => norm_num

end Kinds

/-! ### ACCUM (R141, R144) -/

/-- What input `j` adds to `SUM[i]` when row `t` of buffer A is accumulated. -/
def State.accumTerm (s : State) (l t i j : ℕ) : ℤ :=
  if s.sbGet s.regs.status.sel j t = true then s.eventWeight l j i else 0

theorem eventStep_adds {s : State} (h : s.stale = []) (l t j : ℕ) :
    AddsToSums (fun i => s.accumTerm l t i j) s (eventStep l t s j) := by
  unfold eventStep State.accumTerm
  change AddsToSums _ s (if s.sbGet s.regs.status.sel j t = true then _ else _)
  by_cases hbit : s.sbGet s.regs.status.sel j t = true
  · simpa only [if_pos hbit] using evacc_adds h l j
  · simpa only [if_neg hbit] using AddsToSums.zero s

/-- The events of a row, exactly, where every sum on the way fits. -/
theorem foldl_eventStep_exact {s : State} (h : s.stale = []) (l t n : ℕ)
    (hfit : ∀ m ≤ n, ∀ i, fits32 ((s.sumAt i).toInt + ∑ j ∈ Finset.range m, s.accumTerm l t i j) = true) :
    (∃ m, (List.range n).foldl (eventStep l t) s = { s with arr.sum := m }) ∧
    ∀ i, (((List.range n).foldl (eventStep l t) s).sumAt i).toInt =
      (s.sumAt i).toInt + ∑ j ∈ Finset.range n, s.accumTerm l t i j := by
  induction n with
  | zero => exact ⟨⟨s.arr.sum, rfl⟩, by simp⟩
  | succ n ih =>
    obtain ⟨⟨m, hm⟩, ihsum⟩ := ih fun m hmn => hfit m (by omega)
    rw [List.range_succ, List.foldl_append, List.foldl_cons, List.foldl_nil]
    generalize (List.range n).foldl (eventStep l t) s = u at hm ihsum
    have hterm : ∀ i, u.accumTerm l t i n = s.accumTerm l t i n := fun i => by rw [hm]; rfl
    obtain ⟨⟨m', hm'⟩, hsum⟩ := (eventStep_adds (s := u) (by rw [hm]; exact h) l t n).exact fun i => by
      rw [ihsum, hterm, add_assoc, ← Finset.sum_range_succ]
      exact hfit (n + 1) le_rfl i
    refine ⟨⟨m', by rw [hm', hm]⟩, fun i => ?_⟩
    rw [hsum, ihsum, hterm, add_assoc, ← Finset.sum_range_succ]

/-- The events of layer `l` add to its own neurons only, and every sum that accumulating row `t` passes through fits
its register (R144). -/
structure AccumFits (s : State) (l t : ℕ) : Prop where
  inside : ∀ j < s.nIn l, ∀ i, s.neurons l ≤ i → s.eventWeight l j i = 0
  fits : ∀ m ≤ s.nIn l, ∀ i < s.neurons l,
    fits32 ((s.vbiasWord l i).toInt + ∑ j ∈ Finset.range m, s.accumTerm l t i j) = true

/-- Acceptance leaves everything that decides what ACCUM adds. -/
theorem AccumFits.latch {s : State} {l t : ℕ} (hfit : AccumFits s l t) (w : Word) : AccumFits (latch w s) l t :=
  ⟨hfit.inside, hfit.fits⟩

/-- With TMEM stable, ACCUM leaves each neuron its bias plus the exact sum of its events. -/
theorem accum_exact {s : State} (h : s.stale = []) {l t : ℕ} (hfit : AccumFits s l t) :
    (∃ m, accumEffect l t s = { s with arr.sum := m }) ∧
    (∀ i, s.neurons l ≤ i → (accumEffect l t s).sumAt i = s.sumAt i) ∧
    ∀ i < s.neurons l, ((accumEffect l t s).sumAt i).toInt =
      (s.vbiasWord l i).toInt + ∑ j ∈ Finset.range (s.nIn l), s.accumTerm l t i j := by
  obtain ⟨hinside, hfits⟩ := hfit
  obtain ⟨⟨m, hm⟩, hbias⟩ := vbias_sets h l
  have hterm : ∀ i j, (vbiasEffect l s).accumTerm l t i j = s.accumTerm l t i j := fun i j => by rw [hm]; rfl
  have hzero : ∀ n ≤ s.nIn l, ∀ i, s.neurons l ≤ i → ∑ j ∈ Finset.range n, s.accumTerm l t i j = 0 :=
    fun n hn i hi => Finset.sum_eq_zero fun j hj => by
      rw [State.accumTerm, hinside j ((Finset.mem_range.1 hj).trans_le hn) i hi, ite_self]
  obtain ⟨⟨m', hm'⟩, hsum⟩ := foldl_eventStep_exact (s := vbiasEffect l s) (by rw [hm]; exact h) l t (s.nIn l)
    fun n hn i => by
      simp only [hterm, hbias]
      by_cases hi : i < s.neurons l
      · rw [if_pos hi]
        exact hfits n hn i hi
      · rw [if_neg hi, hzero n hn i (not_lt.1 hi), add_zero, fits32_toInt]
  simp only [hterm, hbias] at hsum
  refine ⟨⟨m', by rw [accumEffect, hm', hm]⟩, fun i hi => BitVec.eq_of_toInt_eq ?_, fun i hi => ?_⟩
  · rw [accumEffect, hsum, if_neg (not_lt.2 hi), hzero _ le_rfl i hi, add_zero]
  · rw [accumEffect, hsum, if_pos hi]

theorem nIn_lt (s : State) (l : ℕ) : s.nIn l < 2 ^ 17 := by
  unfold State.nIn State.neurons
  split <;> exact BitVec.isLt _

/-- On a layer with weights the sums stay far from the bounds of a register. -/
theorem accumFits_of_weights {s : State} {l : ℕ} (hk : s.kind l = .conv ∨ s.kind l = .fullyConnected)
    (hinside : ∀ j < s.nIn l, ∀ i, s.neurons l ≤ i → s.eventWeight l j i = 0) (t : ℕ) : AccumFits s l t := by
  refine ⟨hinside, fun m hm i _ => fits32_bias_add_sum ?_ (fun j => ?_) (hm.trans_lt (nIn_lt s l))⟩
  · obtain hk | hk := hk
    · rw [vbiasWord_conv hk, toInt_signExtend_byte]
      exact abs_toInt_byte_le _
    · rw [vbiasWord_fullyConnected hk, toInt_signExtend_byte]
      exact abs_toInt_byte_le _
  · unfold State.accumTerm
    split
    · exact abs_eventWeight_le (by obtain hk | hk := hk <;> simp [hk]) j i
    · norm_num

theorem accumFits_fullyConnected {s : State} {l : ℕ} (hk : s.kind l = .fullyConnected) (t : ℕ) : AccumFits s l t :=
  accumFits_of_weights (.inr hk)
    (fun j _ i hi => by rw [eventWeight_fullyConnected hk, if_neg (not_lt.2 hi)]) t

theorem accumFits_conv {s : State} {l : ℕ} (hk : s.kind l = .conv)
    (hn : s.filters l * s.outSide l ^ 2 = s.neurons l) (t : ℕ) : AccumFits s l t :=
  accumFits_of_weights (.inl hk)
    (fun j _ i hi => by rw [eventWeight_conv hk, targetSum_convTargets_of_le s l j (hn.trans_le hi)]) t

/-- On an Input layer only the neuron's own input contributes. -/
theorem sum_accumTerm_input {s : State} {l : ℕ} (hk : s.kind l = .input) (t i m : ℕ) :
    ∑ j ∈ Finset.range m, s.accumTerm l t i j =
      if i < m ∧ s.sbGet s.regs.status.sel i t = true then s.params.oneSpike.toInt else 0 := by
  have hterm : ∀ j, s.accumTerm l t i j =
      if i = j then (if s.sbGet s.regs.status.sel i t = true then s.params.oneSpike.toInt else 0) else 0 := fun j => by
    rw [State.accumTerm, eventWeight_input hk]
    by_cases hj : i = j
    · subst hj; simp
    · simp [hj]
  simp only [hterm, Finset.sum_ite_eq, Finset.mem_range, ite_and]

/-- On the Input layer an accumulator holds 0 or the quantum. -/
theorem accumFits_input {s : State} (hk : s.kind 0 = .input) (t : ℕ) : AccumFits s 0 t where
  inside j hj i hi := by
    have hij : i ≠ j := (lt_of_lt_of_le hj hi).ne'
    rw [eventWeight_input hk, if_neg hij]
  fits m _ i _ := by
    rw [toInt_vbiasWord_input hk, zero_add, sum_accumTerm_input hk]
    split
    · exact fits32_toInt _
    · rfl

/-! ### Accepted commands on a configured unit (spec/30_encoding.md R89) -/

/-- An accepted command whose effects change SUM only. -/
theorem exec_sumsOnly {s : State} (hi : Idle s) {i : Instr} (hok : acceptError i s = none)
    (hframe : ∃ m, effectOf i (latch (encode i) s) = { latch (encode i) s with arr.sum := m }) :
    ∃ t, exec i s = .next t ∧ t = { issued i s with arr.sum := t.arr.sum } ∧
      ∀ n, t.sumAt n = (effectOf i (latch (encode i) s)).sumAt n := by
  obtain ⟨m, heff⟩ := hframe
  refine ⟨_, exec_accepted hi hok, ?_, fun _ => rfl⟩
  rw [heff, ← finish_latch hi]
  rfl

section Ready

variable {s : State} (hs : Ready s) {l : ℕ} (hl : l < s.nLayers)
include hs hl

theorem acceptError_vbias : acceptError (.vbias l) s = none :=
  acceptError_of_checks hs.1 nofun nofun (fun _ => hs.2) (decide_eq_true hl) rfl

theorem acceptError_evacc {j : ℕ} (hj : j < s.nIn l) : acceptError (.evacc l j) s = none :=
  acceptError_of_checks hs.1 nofun nofun (fun _ => hs.2) (decide_eq_true ⟨hl, hj⟩) rfl

theorem acceptError_accum {t : ℕ} (ht : t < s.params.tau) : acceptError (.accum l t) s = none :=
  acceptError_of_checks hs.1 nofun nofun (fun _ => hs.2) (decide_eq_true ⟨hl, ht⟩) rfl

/-- EVACC adds the event's weights, and OVF gathers the wraps. -/
theorem exec_evacc {j : ℕ} (hj : j < s.nIn l) : ∃ t, exec (.evacc l j) s = .next t ∧
    t = { issued (.evacc l j) s with arr.sum := t.arr.sum, regs.status.ovf := t.regs.status.ovf } ∧
    (∀ i, t.sumAt i = wrap32 ((s.sumAt i).toInt + s.eventWeight l j i)) ∧
    (t.regs.status.ovf = true ↔ s.regs.status.ovf = true ∨
      ∃ i, fits32 ((s.sumAt i).toInt + s.eventWeight l j i) = false) := by
  obtain ⟨⟨m, o, hframe⟩, hsum, hovf⟩ := evacc_adds (latch_stale (encode (.evacc l j)) s) l j
  refine ⟨_, exec_accepted hs.1 (acceptError_evacc hs hl hj), ?_, hsum, hovf⟩
  rw [effectOf, hframe, ← finish_latch hs.1]
  rfl

/-- `accum_exact` for the command. -/
theorem exec_accum {t : ℕ} (ht : t < s.params.tau) (hfit : AccumFits s l t) :
    ∃ u, exec (.accum l t) s = .next u ∧ u = { issued (.accum l t) s with arr.sum := u.arr.sum } ∧
      (∀ i, s.neurons l ≤ i → u.sumAt i = s.sumAt i) ∧
      ∀ i < s.neurons l, (u.sumAt i).toInt =
        (s.vbiasWord l i).toInt + ∑ j ∈ Finset.range (s.nIn l), s.accumTerm l t i j := by
  obtain ⟨hframe, hkeep, hsum⟩ := accum_exact (latch_stale (encode (.accum l t)) s) (hfit.latch _)
  obtain ⟨u, hexec, hu, hsums⟩ := exec_sumsOnly hs.1 (acceptError_accum hs hl ht) hframe
  refine ⟨u, hexec, hu, fun i hi => ?_, fun i hi => ?_⟩
  · rw [hsums]
    exact hkeep i hi
  · rw [hsums]
    exact hsum i hi

end Ready

/-! ### The statements -/

/-- Settles O38: the words VBIAS writes, kind by kind. -/
theorem vbiasSetsTheBiases : Obligations.VbiasSetsTheBiases := by
  intro s l hs hl _
  obtain ⟨hframe, hsum⟩ := vbias_sets (latch_stale (encode (.vbias l)) s) l
  obtain ⟨t, hexec, ht, hsums⟩ := exec_sumsOnly hs.1 (acceptError_vbias hs hl) hframe
  have hword : ∀ i < s.neurons l, t.sumAt i = s.vbiasWord l i := fun i hi =>
    (hsums i).trans ((hsum i).trans (if_pos hi))
  refine ⟨t, hexec, ht, fun i hi => (hsums i).trans ((hsum i).trans (if_neg (not_lt.2 hi))), ?_, ?_, ?_⟩
  · intro hk i hi
    rw [hword i hi, vbiasWord_input (kind_of_code_zero hk)]
  · intro hk i hi
    rw [hword i hi, vbiasWord_fullyConnected (kind_of_code_two hk), State.fcBiasAddr]
  · intro hk i hi
    rw [hword i hi, vbiasWord_conv (kind_of_code_one hk), State.convBiasAddr, State.outSide]

/-- Settles O39: the event's one weight is the quantum, at its own neuron. -/
theorem evaccInput : Obligations.EvaccInput := by
  intro s l j hs hl hj hk
  obtain ⟨t, hexec, ht, hsum, hovf⟩ := exec_evacc hs hl hj
  simp only [eventWeight_input (kind_of_code_zero hk)] at hsum hovf
  rw [exists_not_fits32_ite s (· = j) (fun _ => s.params.oneSpike.toInt)] at hovf
  refine ⟨t, hexec, ?_, fun i => ?_⟩
  · have ho : t.regs.status.ovf =
        (s.regs.status.ovf || !fits32 ((s.sumAt j).toInt + s.params.oneSpike.toInt)) :=
      Bool.eq_iff_iff.2 (by simpa using hovf)
    rwa [ho] at ht
  · rw [hsum]
    by_cases h : i = j <;> simp [h, wrap32]

/-- Settles O40: an event's weights on a FullyConnected layer, one per neuron. -/
theorem evaccFullyConnected : Obligations.EvaccFullyConnected := by
  intro s l j hs hl hj hk
  obtain ⟨t, hexec, ht, hsum, hovf⟩ := exec_evacc hs hl hj
  simp only [eventWeight_fullyConnected (kind_of_code_two hk), State.fcWeightAddr] at hsum hovf
  rw [exists_not_fits32_ite s (· < s.neurons l)] at hovf
  refine ⟨t, hexec, ?_, fun i => ?_⟩
  · have ho : t.regs.status.ovf = (s.regs.status.ovf || (List.range (s.neurons l)).any
        (fun i => !fits32 ((s.sumAt i).toInt + (s.tmemAt (s.wbase l + i * s.nIn l + j)).toInt))) :=
      Bool.eq_iff_iff.2 (by simpa using hovf)
    rwa [ho] at ht
  · rw [hsum]
    by_cases h : i < s.neurons l <;> simp [h, wrap32]

/-- Settles O41: an event's weights on a Conv layer by output position. -/
theorem evaccConv : Obligations.EvaccConv := by
  rintro s l j _ _ o _ _ hs hl hj hk rfl rfl - ho rfl rfl
  obtain rfl : o = s.outSide l := ho
  obtain ⟨t, hexec, ht, hsum, hovf⟩ := exec_evacc hs hl hj
  rw [eventWeight_conv (kind_of_code_one hk)] at hsum hovf
  rw [exists_not_fits32_targetSum (convTargets_nodup s l j)] at hovf
  refine ⟨t, hexec, ht, fun f hf y hy x hx => ?_, fun i hi => ?_, hovf.trans (or_congr_right ?_)⟩
  · rw [hsum, targetSum_convTargets s l j hf hy hx]
    by_cases h : s.reaches l j y x
    · rw [if_pos h, if_pos h]
      rfl
    · rw [if_neg h, if_neg h, add_zero, wrap32_toInt_self]
  · rw [hsum, targetSum_convTargets_of_le s l j hi, add_zero, wrap32_toInt_self]
  · simp only [mem_convTargets_iff_position]
    constructor
    · rintro ⟨_, ⟨f, hf, y, hy, x, hx, ⟨hy0, hky, hx0, hkx⟩, rfl⟩, hfit⟩
      exact ⟨f, hf, y, hy, x, hx, hy0, hky, hx0, hkx, hfit⟩
    · rintro ⟨f, hf, y, hy, x, hx, hy0, hky, hx0, hkx, hfit⟩
      exact ⟨_, ⟨f, hf, y, hy, x, hx, ⟨hy0, hky, hx0, hkx⟩, rfl⟩, hfit⟩

/-- Settles O42: on an Input layer a neuron's own event only; on a FullyConnected layer the weights of the events. -/
theorem accumDirect : Obligations.AccumDirect := by
  rintro s l t hs hl ht (⟨hcode, rfl⟩ | hcode)
  · have hk := kind_of_code_zero hcode
    obtain ⟨u, hexec, hu, hkeep, hsum⟩ := exec_accum hs hl ht (accumFits_input hk t)
    refine ⟨u, hexec, hu, hkeep, fun _ i hi => BitVec.eq_of_toInt_eq ?_,
      fun h => absurd (hcode.symm.trans h) (by decide)⟩
    have hin : i < s.nIn 0 := hi
    rw [hsum i hi, toInt_vbiasWord_input hk, zero_add, sum_accumTerm_input hk]
    by_cases hbit : s.sbGet s.regs.status.sel i t = true <;> simp [hin, hbit]
  · have hk := kind_of_code_two hcode
    obtain ⟨u, hexec, hu, hkeep, hsum⟩ := exec_accum hs hl ht (accumFits_fullyConnected hk t)
    refine ⟨u, hexec, hu, hkeep, fun h => absurd (hcode.symm.trans h) (by decide), fun _ i hi => ?_⟩
    rw [hsum i hi, vbiasWord_fullyConnected hk, toInt_signExtend_byte]
    simp only [State.accumTerm, eventWeight_fullyConnected hk, if_pos hi]
    rfl

/-- Settles O43: the sum over the events of a row is the sum over the offsets of the kernel. -/
theorem accumConvDense : Obligations.AccumConvDense := by
  rintro s l t _ _ o hs hl ht hcode rfl rfl hle ho hin hn
  obtain rfl : o = s.outSide l := ho
  have hk := kind_of_code_one hcode
  obtain ⟨u, hexec, hu, hkeep, hsum⟩ := exec_accum hs hl ht (accumFits_conv hk hn t)
  refine ⟨u, hexec, hu, hkeep, fun f hf y hy x hx => ?_⟩
  have hword := vbiasWord_conv hk (f * s.outSide l ^ 2 + y * s.outSide l + x)
  rw [position_div f hy hx] at hword
  rw [hsum _ (hn ▸ position_lt hf hy hx), hword, toInt_signExtend_byte, ← hin]
  simp only [State.accumTerm, eventWeight_conv hk, targetSum_convTargets s l _ hf hy hx]
  exact congrArg _ (sum_events_eq_sum_offsets rfl hle hy hx (fun j => s.sbGet s.regs.status.sel j t = true)
    (fun ky kx => (s.tmemAt (s.convWeightAddr l ky kx f)).toInt))

end Sys2Proof.Machine
end

section
/-! The LIF update (spec/44_lif_layer.md R145 to R150): the lanes of VSCALE, VADD and VSUBT compose to the formula of R145
on integers, LAYER repeats LIFSTEP because no effect reads CMD, and an Input neuron is followed through a chunk one
timestep at a time. -/

namespace Sys2Proof.Machine

/-! ### Lanes that follow each other (R120) -/

/-- From `s` to `t`, `V[l][i]` is `r i` narrowed for every `i < n`, OVF gathers the wraps `o i`, and nothing else
changes. -/
structure WritesLanes (l n : ℕ) (r : ℕ → ℤ) (o : ℕ → Bool) (s t : State) : Prop where
  frame : ∃ v q, t = { s with arr.v := v, regs.status.ovf := q }
  vAt : ∀ l' i, t.vAt l' i = if l' = l ∧ i < n then wrap32 (r i) else s.vAt l' i
  ovf : t.regs.status.ovf = (s.regs.status.ovf || (List.range n).any o)

theorem or_any_or_any {α : Type} (q : Bool) (f g : α → Bool) (xs : List α) :
    (q || xs.any f || xs.any g) = (q || xs.any fun x => f x || g x) := by
  induction xs with
  | nil => simp
  | cons x xs ih => simp only [List.any_cons]; grind

section Lanes

variable {l n : ℕ} {r r' : ℕ → ℤ} {o o' : ℕ → Bool} {s t u : State}

theorem WritesLanes.trans (h : WritesLanes l n r o s t) (h' : WritesLanes l n r' o' t u) :
    WritesLanes l n r' (fun i => o i || o' i) s u where
  frame := by
    obtain ⟨v, q, rfl⟩ := h.frame
    obtain ⟨v', q', rfl⟩ := h'.frame
    exact ⟨v', q', rfl⟩
  vAt l' i := by
    rw [h'.vAt, h.vAt]
    by_cases hi : l' = l ∧ i < n <;> simp [hi]
  ovf := by rw [h'.ovf, h.ovf, or_any_or_any]

theorem WritesLanes.congr (h : WritesLanes l n r o s t) (hr : ∀ i < n, r i = r' i) (ho : ∀ i < n, o i = o' i) :
    WritesLanes l n r' o' s t where
  frame := h.frame
  vAt l' i := by
    rw [h.vAt]
    by_cases hi : l' = l ∧ i < n
    · rw [if_pos hi, if_pos hi, hr i hi.2]
    · rw [if_neg hi, if_neg hi]
  ovf := by
    rw [h.ovf]
    congr 1
    refine Bool.eq_iff_iff.2 ?_
    simp only [List.any_eq_true, List.mem_range]
    exact exists_congr fun i => and_congr_right fun hi => by rw [ho i hi]

/-- A lane that is not written keeps an element that is its own narrowing. -/
theorem WritesLanes.refl (l n : ℕ) (s : State) :
    WritesLanes l n (fun i => (s.vAt l i).toInt) (fun _ => false) s s where
  frame := ⟨s.arr.v, s.regs.status.ovf, rfl⟩
  vAt l' i := by
    by_cases hi : l' = l ∧ i < n
    · rw [if_pos hi, wrap32_toInt_self, hi.1]
    · rw [if_neg hi]
  ovf := by simp

end Lanes

/-- The lanes of one command: those with a result get it narrowed, the others keep their element. -/
theorem mapLanes_writes {f : ℕ → Option (Word × Bool)} {w : ℕ → Prop} [DecidablePred w] {r : ℕ → ℤ}
    (hf : ∀ i, f i = if w i then some (wrap32 (r i), overflows (r i)) else none) (l n : ℕ) (s : State) :
    WritesLanes l n (fun i => if w i then r i else (s.vAt l i).toInt) (fun i => decide (w i) && !fits32 (r i)) s
      (mapLanes l n f s) where
  frame := mapLanes_frame l n f s
  vAt l' i := by
    rw [mapLanes_vAt hf]
    by_cases hi : l' = l ∧ i < n
    · by_cases hw : w i <;> simp [hi, hw, wrap32_toInt_self]
    · rw [if_neg hi, if_neg fun h => hi ⟨h.1, h.2.1⟩]
  ovf := mapLanes_ovf hf l n s

theorem mapLanes_writes_all {f : ℕ → Option (Word × Bool)} {r : ℕ → ℤ}
    (hf : ∀ i, f i = some (wrap32 (r i), overflows (r i))) (l n : ℕ) (s : State) :
    WritesLanes l n r (fun i => !fits32 (r i)) s (mapLanes l n f s) := by
  simpa using mapLanes_writes (w := fun _ => True) (fun i => (hf i).trans (if_pos trivial).symm) l n s

theorem WritesLanes.rfAt {l n : ℕ} {r : ℕ → ℤ} {o : ℕ → Bool} {s t : State} (h : WritesLanes l n r o s t)
    (l' i : ℕ) : t.rfAt l' i = s.rfAt l' i := by
  obtain ⟨v, q, rfl⟩ := h.frame
  rfl

theorem WritesLanes.sbGet {l n : ℕ} {r : ℕ → ℤ} {o : ℕ → Bool} {s t : State} (h : WritesLanes l n r o s t)
    (b : Buf) (m t' : ℕ) : t.sbGet b m t' = s.sbGet b m t' := by
  obtain ⟨v, q, rfl⟩ := h.frame
  rfl

/-! ### The three additions and scalings of R145 -/

theorem vscale_writes (l : ℕ) (s : State) :
    WritesLanes l (s.neurons l) (fun i => (s.vAt l i).toInt * (s.dkAt l i).toInt / 128)
      (fun i => !fits32 ((s.vAt l i).toInt * (s.dkAt l i).toInt / 128)) s (vscaleEffect l s) :=
  mapLanes_writes_all (fun _ => rfl) l _ s

theorem vadd_writes (l : ℕ) (s : State) :
    WritesLanes l (s.neurons l) (fun i => (s.vAt l i).toInt + (s.sumAt i).toInt)
      (fun i => !fits32 ((s.vAt l i).toInt + (s.sumAt i).toInt)) s (vaddEffect l s) :=
  mapLanes_writes_all (fun _ => rfl) l _ s

/-- A lane VSUBT does not write is one from which it subtracts nothing. -/
theorem vsubt_writes (l : ℕ) (s : State) :
    WritesLanes l (s.neurons l) (fun i => (s.vAt l i).toInt - if s.rfAt l i = 1 then (s.thAt l i).toInt else 0)
      (fun i => !fits32 ((s.vAt l i).toInt - if s.rfAt l i = 1 then (s.thAt l i).toInt else 0)) s
      (vsubtEffect l s) := by
  refine (mapLanes_writes (vsubtLane_eq s l) l _ s).congr (fun i _ => ?_) fun i _ => ?_
  · by_cases h : s.rfAt l i = 1
    · rw [if_pos h, if_pos h]
    · rw [if_neg h, if_neg h, sub_zero]
  · by_cases h : s.rfAt l i = 1
    · rw [if_pos h, decide_eq_true h, Bool.true_and]
    · rw [if_neg h, decide_eq_false h, sub_zero, fits32_toInt]
      rfl

/-- Without a decay the potential is its own narrowing. -/
theorem decay_writes (l : ℕ) (s : State) :
    WritesLanes l (s.neurons l)
      (fun i => lifDecayed (!s.regs.ifMode) (s.vAt l i).toInt (s.dkAt l i).toInt)
      (fun i => !fits32 (lifDecayed (!s.regs.ifMode) (s.vAt l i).toInt (s.dkAt l i).toInt)) s
      (decayEffect l s) := by
  unfold decayEffect lifDecayed
  cases s.regs.ifMode with
  | false => simpa using vscale_writes l s
  | true => simpa [fits32_toInt] using WritesLanes.refl l (s.neurons l) s

/-! ### What the commands of a LIF update leave alone -/

/-- `t` differs from `s` at most in V, RF, the two buffers and OVF. -/
def LifFrame (s t : State) : Prop :=
  ∃ v f b0 b1 q, t = { s with arr.v := v, arr.rf := f, arr.sb0 := b0, arr.sb1 := b1, regs.status.ovf := q }

section Frame

variable {s t u : State}

theorem LifFrame.trans (h : LifFrame s t) (h' : LifFrame t u) : LifFrame s u := by
  obtain ⟨v, f, b0, b1, q, rfl⟩ := h
  obtain ⟨v', f', b0', b1', q', rfl⟩ := h'
  exact ⟨v', f', b0', b1', q', rfl⟩

theorem WritesLanes.lifFrame {l n : ℕ} {r : ℕ → ℤ} {o : ℕ → Bool} (h : WritesLanes l n r o s t) : LifFrame s t := by
  obtain ⟨v, q, rfl⟩ := h.frame
  exact ⟨v, s.arr.rf, s.arr.sb0, s.arr.sb1, q, rfl⟩

theorem LifFrame.neurons (h : LifFrame s t) (l : ℕ) : t.neurons l = s.neurons l := by
  obtain ⟨v, f, b0, b1, q, rfl⟩ := h
  rfl

theorem LifFrame.thAt (h : LifFrame s t) (l i : ℕ) : t.thAt l i = s.thAt l i := by
  obtain ⟨v, f, b0, b1, q, rfl⟩ := h
  rfl

theorem LifFrame.sumAt (h : LifFrame s t) (i : ℕ) : t.sumAt i = s.sumAt i := by
  obtain ⟨v, f, b0, b1, q, rfl⟩ := h
  rfl

theorem LifFrame.sel (h : LifFrame s t) : t.regs.status.sel = s.regs.status.sel := by
  obtain ⟨v, f, b0, b1, q, rfl⟩ := h
  rfl

end Frame

/-- VCMP keeps the potentials, the buffers and OVF. -/
theorem vcmp_keeps (l : ℕ) (s : State) :
    LifFrame s (vcmpEffect l s) ∧ (∀ l' i, (vcmpEffect l s).vAt l' i = s.vAt l' i) ∧
    (∀ b n t, (vcmpEffect l s).sbGet b n t = s.sbGet b n t) ∧
    (vcmpEffect l s).regs.status.ovf = s.regs.status.ovf := by
  obtain ⟨f, hf⟩ := vcmp_frame l s
  rw [hf]
  exact ⟨⟨s.arr.v, f, s.arr.sb0, s.arr.sb1, s.regs.status.ovf, rfl⟩, fun _ _ => rfl, fun _ _ _ => rfl, rfl⟩

/-- VPACK keeps the potentials, the flags and OVF. -/
theorem vpack_keeps (l t : ℕ) (s : State) :
    LifFrame s (vpackEffect l t s) ∧ (∀ l' i, (vpackEffect l t s).vAt l' i = s.vAt l' i) ∧
    (∀ l' i, (vpackEffect l t s).rfAt l' i = s.rfAt l' i) ∧
    (vpackEffect l t s).regs.status.ovf = s.regs.status.ovf := by
  obtain ⟨b0, b1, hb⟩ := vpack_frame l t s
  rw [hb]
  exact ⟨⟨s.arr.v, s.arr.rf, b0, b1, s.regs.status.ovf, rfl⟩, fun _ _ => rfl, fun _ _ => rfl, rfl⟩

/-! ### The update of a neuron (R145) -/

/-- `v2` of neuron `i` of layer `l` before it is narrowed, from the sums of the state. -/
def State.lifSummedAt (s : State) (l i : ℕ) : ℤ :=
  lifSummed (!s.regs.ifMode) (s.vAt l i).toInt (s.dkAt l i).toInt (s.sumAt i).toInt

/-- `fire` of neuron `i` of layer `l`, from the sums of the state. -/
def State.lifFiresAt (s : State) (l i : ℕ) : Bool :=
  lifFires (!s.regs.ifMode) (s.vAt l i).toInt (s.dkAt l i).toInt (s.sumAt i).toInt (s.thAt l i).toInt

/-- `v3` of neuron `i` of layer `l` before it is narrowed, from the sums of the state. -/
def State.lifRestAt (s : State) (l i : ℕ) : ℤ :=
  lifRest (!s.regs.ifMode) (s.vAt l i).toInt (s.dkAt l i).toInt (s.sumAt i).toInt (s.thAt l i).toInt

/-- A narrowing of neuron `i` of layer `l` wraps, from the sums of the state. -/
def State.lifWrapsAt (s : State) (l i : ℕ) : Bool :=
  lifWraps (!s.regs.ifMode) (s.vAt l i).toInt (s.dkAt l i).toInt (s.sumAt i).toInt (s.thAt l i).toInt

/-- LIFSTEP after its ACCUM: the decay where IF_MODE asks for it, then VADD, VCMP, VSUBT and VPACK (R145, R146). -/
def lifUpdate (l t : ℕ) (s : State) : State :=
  vpackEffect l t (vsubtEffect l (vcmpEffect l (vaddEffect l (decayEffect l s))))

theorem lifstepEffect_eq (l t : ℕ) (s : State) : lifstepEffect l t s = lifUpdate l t (accumEffect l t s) := rfl

/-- From `s` to `u`, every neuron of layer `l` takes the update of R145 with the sums of `s`, its flag goes to row `t` of
buffer B, OVF gathers the wraps, and nothing else changes. -/
structure UpdatesNeurons (l t : ℕ) (s u : State) : Prop where
  frame : LifFrame s u
  vAt : ∀ l' i, u.vAt l' i = if l' = l ∧ i < s.neurons l then wrap32 (s.lifRestAt l i) else s.vAt l' i
  rfAt : ∀ l' i, u.rfAt l' i =
    if l' = l ∧ i < s.neurons l then BitVec.ofBool (s.lifFiresAt l i) else s.rfAt l' i
  sbGet : ∀ b n t', u.sbGet b n t' =
    if b = otherBuf s.regs.status.sel ∧ n < s.neurons l ∧ t' = t then s.lifFiresAt l n else s.sbGet b n t'
  ovf : u.regs.status.ovf = (s.regs.status.ovf || (List.range (s.neurons l)).any (s.lifWrapsAt l))

/-- The decay and VADD leave `v2`. -/
theorem summed_writes (l : ℕ) (s : State) :
    WritesLanes l (s.neurons l) (s.lifSummedAt l)
      (fun i => !fits32 (lifDecayed (!s.regs.ifMode) (s.vAt l i).toInt (s.dkAt l i).toInt) ||
        !fits32 (s.lifSummedAt l i)) s (vaddEffect l (decayEffect l s)) := by
  have hdecay := decay_writes l s
  have hadd := vadd_writes l (decayEffect l s)
  rw [hdecay.lifFrame.neurons] at hadd
  have hsummed : ∀ i < s.neurons l,
      ((decayEffect l s).vAt l i).toInt + ((decayEffect l s).sumAt i).toInt = s.lifSummedAt l i := fun i hi => by
    rw [hdecay.vAt, if_pos ⟨rfl, hi⟩, hdecay.lifFrame.sumAt]
    rfl
  exact (hdecay.trans hadd).congr hsummed fun i hi => by rw [hsummed i hi]

theorem ofBool_eq_one (q : Bool) : BitVec.ofBool q = 1 ↔ q = true := by
  cases q <;> decide

/-- VCMP leaves the flags of R145, from a state that keeps the thresholds of `s` and holds its `v2`. -/
theorem vcmp_fires {l : ℕ} {o : ℕ → Bool} {s x : State}
    (h : WritesLanes l (s.neurons l) (s.lifSummedAt l) o s x) (l' i : ℕ) :
    (vcmpEffect l x).rfAt l' i =
      if l' = l ∧ i < s.neurons l then BitVec.ofBool (s.lifFiresAt l i) else s.rfAt l' i := by
  rw [vcmp_rfAt, h.lifFrame.neurons, h.rfAt]
  by_cases hi : l' = l ∧ i < s.neurons l
  · rw [if_pos hi, if_pos hi, h.vAt, if_pos ⟨rfl, hi.2⟩, h.lifFrame.thAt]
    rfl
  · rw [if_neg hi, if_neg hi]

/-- VSUBT leaves `v3`, from a state that keeps the thresholds of `s` and holds its `v2` and its flags. -/
theorem rest_writes {l : ℕ} {s c : State} (hframe : LifFrame s c)
    (hv : ∀ i < s.neurons l, c.vAt l i = wrap32 (s.lifSummedAt l i))
    (hf : ∀ i < s.neurons l, c.rfAt l i = BitVec.ofBool (s.lifFiresAt l i)) :
    WritesLanes l (s.neurons l) (s.lifRestAt l) (fun i => !fits32 (s.lifRestAt l i)) c (vsubtEffect l c) := by
  have hrest : ∀ i < s.neurons l,
      (c.vAt l i).toInt - (if c.rfAt l i = 1 then (c.thAt l i).toInt else 0) = s.lifRestAt l i := fun i hi => by
    rw [hf i hi, hframe.thAt, hv i hi]
    simp only [ofBool_eq_one]
    rfl
  have hsub := vsubt_writes l c
  rw [hframe.neurons] at hsub
  exact hsub.congr hrest fun i hi => by rw [hrest i hi]

/-- The update of a neuron, step by step in the order of R146. -/
theorem lifUpdate_updates (l t : ℕ) (s : State) : UpdatesNeurons l t s (lifUpdate l t s) := by
  have hsummed := summed_writes l s
  unfold lifUpdate
  generalize vaddEffect l (decayEffect l s) = x at hsummed ⊢
  have hfires := vcmp_fires hsummed
  obtain ⟨hcframe, hcv, hcb, hcovf⟩ := vcmp_keeps l x
  generalize vcmpEffect l x = c at hfires hcframe hcv hcb hcovf ⊢
  have hframe := hsummed.lifFrame.trans hcframe
  have hrest := rest_writes hframe (fun i hi => by rw [hcv, hsummed.vAt, if_pos ⟨rfl, hi⟩])
    (fun i hi => (hfires l i).trans (if_pos ⟨rfl, hi⟩))
  generalize vsubtEffect l c = b at hrest ⊢
  obtain ⟨hpframe, hpv, hpf, hpovf⟩ := vpack_keeps l t b
  have hbframe := hframe.trans hrest.lifFrame
  refine ⟨hbframe.trans hpframe, fun l' i => ?_, fun l' i => ?_, fun k n t' => ?_, ?_⟩
  · rw [hpv, hrest.vAt, hcv, hsummed.vAt]
    by_cases hi : l' = l ∧ i < s.neurons l <;> simp [hi]
  · rw [hpf, hrest.rfAt, hfires]
  · rw [vpack_sbGet, State.roleBuf, hbframe.sel, hbframe.neurons, hrest.rfAt, hfires, hrest.sbGet, hcb, hsummed.sbGet]
    by_cases hi : n < s.neurons l
    · simp only [hi, and_self, if_true, ofBool_eq_one, Bool.decide_eq_true]
    · simp [hi]
  · rw [hpovf, hrest.ovf, hcovf, hsummed.ovf, or_any_or_any]
    rfl

/-! ### What ACCUM leaves alone, whatever the layer (R141, R144) -/

/-- With TMEM stable, ACCUM changes SUM and OVF only. -/
theorem accum_frame {s : State} (h : s.stale = []) (l t : ℕ) :
    ∃ m q, accumEffect l t s = { s with arr.sum := m, regs.status.ovf := q } := by
  refine foldl_inv (P := fun u : State => ∃ m q, u = { s with arr.sum := m, regs.status.ovf := q }) _ ?_ _ ?_
  · rintro _ j - ⟨m, q, rfl⟩
    obtain ⟨m', q', hstep⟩ := (eventStep_adds (s := { s with arr.sum := m, regs.status.ovf := q }) h l t j).frame
    exact ⟨m', q', hstep⟩
  · obtain ⟨m, hbias⟩ := (vbias_sets h l).frame
    exact ⟨m, s.regs.status.ovf, hbias⟩

/-! ### No effect of the LIF update reads CMD, and only the decay reads IF_MODE -/

/-- The same state with other contents of CMD and IF_MODE. -/
def relabel (c : Word → Word) (m : Bool → Bool) (s : State) : State :=
  { s with regs.cmd := c s.regs.cmd, regs.ifMode := m s.regs.ifMode }

section Relabel

variable (c : Word → Word) (m : Bool → Bool)

theorem foldl_relabel {α : Type} {f : State → α → State} (h : ∀ s x, f (relabel c m s) x = relabel c m (f s x))
    (xs : List α) (s : State) : xs.foldl f (relabel c m s) = relabel c m (xs.foldl f s) :=
  List.foldl_hom (relabel c m) h

theorem memRead_relabel (s : State) (a : ℕ) :
    (relabel c m s).memRead a = ((s.memRead a).1, relabel c m (s.memRead a).2) := by
  have hstale : (relabel c m s).staleAt a = s.staleAt a := rfl
  unfold State.memRead
  rw [hstale]
  cases s.staleAt a <;> rfl

theorem sbSet_relabel (s : State) (k : Buf) (n t : ℕ) (x : Bool) :
    (relabel c m s).sbSet k n t x = relabel c m (s.sbSet k n t x) := by
  cases k <;> rfl

theorem mapLanes_relabel (l n : ℕ) (f : ℕ → Option (Word × Bool)) (s : State) :
    mapLanes l n f (relabel c m s) = relabel c m (mapLanes l n f s) := by
  refine foldl_relabel c m (fun s i => ?_) _ s
  cases f i <;> rfl

theorem loadSums_relabel (ts : List (ℕ × ℕ)) (s : State) :
    loadSums ts (relabel c m s) = relabel c m (loadSums ts s) :=
  foldl_relabel c m (fun s p => by rw [memRead_relabel]; rfl) ts s

theorem accumulateSums_relabel (ts : List (ℕ × ℕ)) (s : State) :
    accumulateSums ts (relabel c m s) = relabel c m (accumulateSums ts s) :=
  foldl_relabel c m (fun s p => by rw [memRead_relabel]; rfl) ts s

theorem vbias_relabel (l : ℕ) (s : State) : vbiasEffect l (relabel c m s) = relabel c m (vbiasEffect l s) := by
  have hkind : (relabel c m s).kind l = s.kind l := rfl
  unfold vbiasEffect
  rw [hkind]
  cases s.kind l with
  | input => exact foldl_relabel c m (fun _ _ => rfl) _ s
  | fullyConnected => exact loadSums_relabel c m _ s
  | conv => exact loadSums_relabel c m _ s
  | reserved => rfl

theorem evacc_relabel (l j : ℕ) (s : State) : evaccEffect l j (relabel c m s) = relabel c m (evaccEffect l j s) := by
  have hkind : (relabel c m s).kind l = s.kind l := rfl
  unfold evaccEffect
  rw [hkind]
  cases s.kind l with
  | input => rfl
  | fullyConnected => exact accumulateSums_relabel c m _ s
  | conv => exact accumulateSums_relabel c m _ s
  | reserved => rfl

theorem eventStep_relabel (l t : ℕ) (s : State) (j : ℕ) :
    eventStep l t (relabel c m s) j = relabel c m (eventStep l t s j) := by
  unfold eventStep
  change (if s.sbGet (s.roleBuf .A) j t = true then _ else _) = _
  rw [evacc_relabel, apply_ite (relabel c m)]

theorem accum_relabel (l t : ℕ) (s : State) : accumEffect l t (relabel c m s) = relabel c m (accumEffect l t s) := by
  unfold accumEffect
  rw [vbias_relabel]
  exact foldl_relabel c m (eventStep_relabel c m l t) _ _

theorem vscale_relabel (l : ℕ) (s : State) : vscaleEffect l (relabel c m s) = relabel c m (vscaleEffect l s) :=
  mapLanes_relabel c m l _ (vscaleLane s l) s

theorem vadd_relabel (l : ℕ) (s : State) : vaddEffect l (relabel c m s) = relabel c m (vaddEffect l s) :=
  mapLanes_relabel c m l _ (vaddLane s l) s

theorem vcmp_relabel (l : ℕ) (s : State) : vcmpEffect l (relabel c m s) = relabel c m (vcmpEffect l s) :=
  foldl_relabel c m (fun _ _ => rfl) _ s

theorem vsubt_relabel (l : ℕ) (s : State) : vsubtEffect l (relabel c m s) = relabel c m (vsubtEffect l s) :=
  mapLanes_relabel c m l _ (vsubtLane s l) s

theorem vpack_relabel (l t : ℕ) (s : State) : vpackEffect l t (relabel c m s) = relabel c m (vpackEffect l t s) :=
  foldl_relabel c m (fun s _ => sbSet_relabel c m s _ _ _ _) _ s

/-- LIFSTEP after its decay. -/
theorem afterDecay_relabel (l t : ℕ) (s : State) :
    vpackEffect l t (vsubtEffect l (vcmpEffect l (vaddEffect l (relabel c m s)))) =
      relabel c m (vpackEffect l t (vsubtEffect l (vcmpEffect l (vaddEffect l s)))) := by
  rw [vadd_relabel, vcmp_relabel, vsubt_relabel, vpack_relabel]

theorem lifstep_relabel (l t : ℕ) (s : State) :
    lifstepEffect l t (relabel c id s) = relabel c id (lifstepEffect l t s) := by
  have hdecay : ∀ s, decayEffect l (relabel c id s) = relabel c id (decayEffect l s) := fun s => by
    unfold decayEffect
    change (if s.regs.ifMode = true then _ else _) = _
    rw [vscale_relabel, apply_ite (relabel c id)]
  rw [lifstepEffect_eq, accum_relabel, lifUpdate, hdecay, afterDecay_relabel]
  rfl

end Relabel

/-- The next command of a run finds the running effects where the last one left them. -/
theorem latch_finish (w : Word) {s : State} (hb : s.regs.status.busy = true) (hst : s.stale = []) :
    latch w (finish s) = relabel (fun _ => w) id s := by
  simp only [latch, finish, relabel, id, ← hb, ← hst]

/-- Latching one word or another differs in CMD only. -/
theorem latch_eq_relabel (w w' : Word) (s : State) : latch w s = relabel (fun _ => w) id (latch w' s) := rfl

/-- What ACCUM leaves in SUM and OVF does not depend on the word that is latched. -/
theorem accum_latch (s : State) (l t : ℕ) :
    ∃ m q, ∀ w, accumEffect l t (latch w s) = { latch w s with arr.sum := m, regs.status.ovf := q } := by
  obtain ⟨m, q, h⟩ := accum_frame (latch_stale 0 s) l t
  refine ⟨m, q, fun w => ?_⟩
  rw [latch_eq_relabel w 0, accum_relabel, h]
  rfl

/-! ### LIFSTEP (R145, R149) -/

@[simp] theorem finish_vAt (s : State) (l i : ℕ) : (finish s).vAt l i = s.vAt l i := rfl

@[simp] theorem finish_rfAt (s : State) (l i : ℕ) : (finish s).rfAt l i = s.rfAt l i := rfl

section Ready

variable {s : State} (hs : Ready s) {l : ℕ} (hl : l < s.nLayers)
include hs hl

theorem acceptError_lifstep {t : ℕ} (ht : t < s.params.tau) : acceptError (.lifstep l t) s = none :=
  acceptError_of_checks hs.1 nofun nofun (fun _ => hs.2) (decide_eq_true ⟨hl, ht⟩) rfl

theorem acceptError_layer : acceptError (.layer l) s = none :=
  acceptError_of_checks hs.1 nofun nofun (fun _ => hs.2) (decide_eq_true hl) rfl

end Ready

/-- Settles O44: the update of the neurons, from the sums that ACCUM leaves under either command word. -/
theorem lifstepUpdatesEachNeuron : Obligations.LifstepUpdatesEachNeuron := by
  intro s l t hs hl ht
  obtain ⟨m, q, hsums⟩ := accum_latch s l t
  obtain ⟨⟨v, f, b0, b1, o, hframe⟩, hv, hf, hbits, hovf⟩ :=
    lifUpdate_updates l t (accumEffect l t (latch (encode (.lifstep l t)) s))
  rw [hframe, hsums] at hovf
  refine ⟨_, _, exec_accepted hs.1 (acceptError_accum hs hl ht), exec_accepted hs.1 (acceptError_lifstep hs hl ht),
    ?_, fun l' i => ?_, fun b n t' => ?_⟩
  · rw [effectOf, effectOf, lifstepEffect_eq, hframe, hsums, hsums, ← finish_latch hs.1, show o = _ from hovf]
    rfl
  · rw [effectOf, effectOf, lifstepEffect_eq, finish_vAt, finish_rfAt, hv, hf, hsums, hsums]
    exact ⟨rfl, rfl⟩
  · rw [effectOf, effectOf, lifstepEffect_eq, finish_sbGet, hbits, hsums, hsums]
    rfl

/-! ### LAYER (R148, R149) -/

/-- From `s` to `u`, only V and RF of the neurons of layer `l`, their bits in rows `0 .. T - 1` of buffer B, SUM and OVF
can change (R149). -/
structure KeepsOutside (l T : ℕ) (s u : State) : Prop where
  frame : ∃ v f m b0 b1 q, u =
    { s with arr.v := v, arr.rf := f, arr.sum := m, arr.sb0 := b0, arr.sb1 := b1, regs.status.ovf := q }
  lanes : ∀ l' i, l' ≠ l ∨ s.neurons l ≤ i → u.vAt l' i = s.vAt l' i ∧ u.rfAt l' i = s.rfAt l' i
  bits : ∀ b n t, b = s.regs.status.sel ∨ s.neurons l ≤ n ∨ T ≤ t → u.sbGet b n t = s.sbGet b n t

theorem KeepsOutside.refl (l T : ℕ) (s : State) : KeepsOutside l T s s where
  frame := ⟨s.arr.v, s.arr.rf, s.arr.sum, s.arr.sb0, s.arr.sb1, s.regs.status.ovf, rfl⟩
  lanes _ _ _ := ⟨rfl, rfl⟩
  bits _ _ _ _ := rfl

section Keeps

variable {l T : ℕ} {s t u : State}

theorem KeepsOutside.trans (h : KeepsOutside l T s t) (h' : KeepsOutside l T t u) : KeepsOutside l T s u := by
  obtain ⟨⟨v, f, m, b0, b1, q, rfl⟩, hlanes, hbits⟩ := h
  obtain ⟨⟨v', f', m', b0', b1', q', rfl⟩, hlanes', hbits'⟩ := h'
  refine ⟨⟨v', f', m', b0', b1', q', rfl⟩, fun l' i hout => ?_, fun b n r hout => ?_⟩
  · obtain ⟨hv, hf⟩ := hlanes l' i hout
    obtain ⟨hv', hf'⟩ := hlanes' l' i hout
    exact ⟨hv'.trans hv, hf'.trans hf⟩
  · exact (hbits' b n r hout).trans (hbits b n r hout)

theorem KeepsOutside.stale (h : KeepsOutside l T s u) : u.stale = s.stale := by
  obtain ⟨v, f, m, b0, b1, q, rfl⟩ := h.frame
  rfl

theorem KeepsOutside.regs (h : KeepsOutside l T s u) :
    ∃ q, u.regs = { s.regs with status.ovf := q } := by
  obtain ⟨v, f, m, b0, b1, q, rfl⟩ := h.frame
  exact ⟨q, rfl⟩

theorem KeepsOutside.params (h : KeepsOutside l T s u) : u.params = s.params := by
  obtain ⟨v, f, m, b0, b1, q, rfl⟩ := h.frame
  rfl

end Keeps

theorem otherBuf_ne (k : Buf) : otherBuf k ≠ k := by
  cases k <;> decide

theorem lifstep_keeps {s : State} (h : s.stale = []) (l : ℕ) {t T : ℕ} (ht : t < T) :
    KeepsOutside l T s (lifstepEffect l t s) := by
  obtain ⟨m, q, ha⟩ := accum_frame h l t
  obtain ⟨⟨v, f, b0, b1, q', hframe⟩, hv, hf, hbits, -⟩ := lifUpdate_updates l t (accumEffect l t s)
  rw [lifstepEffect_eq]
  rw [ha] at hframe hv hf hbits ⊢
  refine ⟨⟨v, f, m, b0, b1, q', hframe⟩, fun l' i hout => ?_, fun b n t' hout => ?_⟩
  · have hne : ¬(l' = l ∧ i < s.neurons l) := by omega
    exact ⟨(hv l' i).trans (if_neg hne), (hf l' i).trans (if_neg hne)⟩
  · have hne : ¬(b = otherBuf s.regs.status.sel ∧ n < s.neurons l ∧ t' = t) := by
      rintro ⟨rfl, hn, rfl⟩
      obtain hsel | hout | hout := hout
      · exact otherBuf_ne _ hsel
      · exact absurd hn (not_lt.2 hout)
      · exact absurd ht (not_lt.2 hout)
    exact (hbits b n t').trans (if_neg hne)

/-- The first `n` timesteps of LAYER. -/
def layerSteps (l n : ℕ) (s : State) : State := (List.range n).foldl (fun s t => lifstepEffect l t s) s

theorem layerSteps_succ (l n : ℕ) (s : State) :
    layerSteps l (n + 1) s = lifstepEffect l n (layerSteps l n s) := by
  rw [layerSteps, layerSteps, List.range_succ, List.foldl_append, List.foldl_cons, List.foldl_nil]

theorem layerEffect_eq (l : ℕ) (s : State) : layerEffect l s = layerSteps l s.params.tau s := rfl

theorem layerSteps_keeps {s : State} (h : s.stale = []) (l : ℕ) {n T : ℕ} (hn : n ≤ T) :
    KeepsOutside l T s (layerSteps l n s) := by
  induction n with
  | zero => exact KeepsOutside.refl l T s
  | succ n ih =>
    have hkeep := ih (by omega)
    rw [layerSteps_succ]
    exact hkeep.trans (lifstep_keeps (hkeep.stale.trans h) l hn)

theorem execAll_append_of_next {xs ys : List Instr} {s t : State} (h : execAll xs s = .next t) :
    execAll (xs ++ ys) s = execAll ys t := by
  induction xs generalizing s with
  | nil =>
    obtain rfl : s = t := Host.Outcome.next.inj h
    rfl
  | cons i xs ih =>
    rw [List.cons_append, execAll]
    rw [execAll] at h
    cases hi : exec i s with
    | next u =>
      rw [hi] at h
      exact ih h
    | fault r =>
      rw [hi] at h
      exact absurd h nofun
    | refused r =>
      rw [hi] at h
      exact absurd h nofun

/-- A state that latches to what the running effects of `s` have become is ready for the next command. -/
theorem ready_of_latch_keeps {l T : ℕ} {s v : State} (hs : Ready s) (hb : v.regs.status.busy = false) {w : Word}
    (h : KeepsOutside l T (latch w s) (latch w v)) :
    Ready v ∧ v.nLayers = s.nLayers ∧ v.params = s.params := by
  obtain ⟨q, hregs⟩ := h.regs
  have hfatal : v.regs.status.fatal = s.regs.status.fatal := congrArg (·.status.fatal) hregs
  have hconf : v.regs.status.configured = s.regs.status.configured := congrArg (·.status.configured) hregs
  have hn : v.regs.nlayers = s.regs.nlayers := congrArg (·.nlayers) hregs
  exact ⟨⟨⟨hb, hfatal.trans hs.1.2⟩, hconf.trans hs.2⟩, congrArg BitVec.toNat hn, h.params⟩

/-- LIFSTEP l, 0 to n - 1 issued one after the other leave what the first `n` timesteps of a running LAYER leave, under
whatever word is latched. -/
theorem execAll_lifsteps {s : State} (hs : Ready s) {l : ℕ} (hl : l < s.nLayers) {n : ℕ} (hn : n ≤ s.params.tau) :
    ∃ v, execAll ((List.range n).map (Instr.lifstep l)) s = .next v ∧ v.regs.status.busy = false ∧
      ∀ w, latch w v = layerSteps l n (latch w s) := by
  induction n with
  | zero => exact ⟨s, rfl, hs.1.1, fun _ => rfl⟩
  | succ n ih =>
    obtain ⟨v, hexec, hb, hlatch⟩ := ih (by omega)
    have hkeep : ∀ w, KeepsOutside l s.params.tau (latch w s) (latch w v) := fun w => by
      rw [hlatch]
      exact layerSteps_keeps (latch_stale w s) l (by omega)
    obtain ⟨hv, hnl, hp⟩ := ready_of_latch_keeps hs hb (hkeep 0)
    have hstep := exec_accepted hv.1 (acceptError_lifstep hv (hnl ▸ hl) (t := n) (by rw [hp]; omega))
    refine ⟨finish (lifstepEffect l n (latch (encode (.lifstep l n)) v)), ?_, finish_busy _, fun w => ?_⟩
    · rw [List.range_succ, List.map_append, execAll_append_of_next hexec]
      exact execAll_cons_of_next hstep []
    · have hrun := lifstep_keeps (latch_stale (encode (.lifstep l n)) v) l (Nat.lt_succ_self n)
      obtain ⟨q, hregs⟩ := hrun.regs
      rw [latch_finish w (by rw [hregs]; rfl) hrun.stale, ← lifstep_relabel, ← latch_eq_relabel, hlatch,
        layerSteps_succ]

/-- Settles O46: LAYER's timesteps as separate commands, and what each of them keeps. -/
theorem layerSequence : Obligations.LayerSequence := by
  intro s l hs hl
  obtain ⟨v, hexec, hb, hlatch⟩ := execAll_lifsteps hs hl le_rfl
  have hkeep := layerSteps_keeps (latch_stale (encode (.layer l)) s) l (le_refl s.params.tau)
  have hv : Ready v := (ready_of_latch_keeps hs hb (w := encode (.layer l)) (by rw [hlatch]; exact hkeep)).1
  obtain ⟨⟨a, f, m, b0, b1, q, hframe⟩, hlanes, hbits⟩ := hkeep
  refine ⟨_, v, exec_accepted hs.1 (acceptError_layer hs hl), hexec, ?_, ?_, fun l' i hout => ?_, fun b n t hout => ?_⟩
  · rw [effectOf, layerEffect_eq, latch_params, ← hlatch, finish_latch hv.1]
    rfl
  · rw [effectOf, layerEffect_eq, latch_params, hframe, ← finish_latch hs.1]
    rfl
  · exact hlanes l' i hout
  · exact hbits b n t hout

/-! ### A decay rate of 1 (R147) -/

theorem mapLanes_tableWf {s : State} (h : TableWf s.arr.v) (l n : ℕ) (f : ℕ → Option (Word × Bool)) :
    TableWf (mapLanes l n f s).arr.v := by
  refine foldl_inv (P := fun u : State => TableWf u.arr.v) _ (fun u i _ hu => ?_) s h
  cases f i with
  | some r => exact tableWf_cellSet hu (l, i) r.1
  | none => exact hu

/-- Lanes that write back what stands there leave a canonical V table, and so the state, as it is. -/
theorem WritesLanes.eq_self {l n : ℕ} {s t : State}
    (h : WritesLanes l n (fun i => (s.vAt l i).toInt) (fun _ => false) s t) (hs : TableWf s.arr.v)
    (ht : TableWf t.arr.v) : t = s := by
  have hsame := WritesLanes.refl l n s
  have hv : t.arr.v = s.arr.v := table_ext ht hs fun k => (h.vAt k.1 k.2).trans (hsame.vAt k.1 k.2).symm
  have hovf : t.regs.status.ovf = s.regs.status.ovf := h.ovf.trans hsame.ovf.symm
  obtain ⟨v, q, rfl⟩ := h.frame
  obtain rfl : v = s.arr.v := hv
  obtain rfl : q = s.regs.status.ovf := hovf
  rfl

/-- DK = 128 is the decay rate 1: the product scaled down again is the potential itself, and it fits. -/
theorem vscale_decayOne {l : ℕ} {s : State} (hwf : TableWf s.arr.v) (hdk : ∀ i < s.neurons l, s.dkAt l i = 128) :
    vscaleEffect l s = s := by
  have hone : ∀ i < s.neurons l, (s.vAt l i).toInt * (s.dkAt l i).toInt / 128 = (s.vAt l i).toInt := fun i hi => by
    rw [hdk i hi]
    exact Int.mul_ediv_cancel _ (by decide)
  refine ((vscale_writes l s).congr hone fun i hi => ?_).eq_self hwf (mapLanes_tableWf hwf l _ _)
  rw [hone i hi, fits32_toInt]
  rfl

theorem lifstep_decayOne {l : ℕ} (t : ℕ) {s : State} (h : s.stale = []) (hmode : s.regs.ifMode = true)
    (hwf : TableWf s.arr.v) (hdk : ∀ i < s.neurons l, s.dkAt l i = 128) :
    lifstepEffect l t (relabel id (fun _ => false) s) = relabel id (fun _ => false) (lifstepEffect l t s) := by
  obtain ⟨m, q, ha⟩ := accum_frame h l t
  have hleaky : decayEffect l (relabel id (fun _ => false) (accumEffect l t s)) =
      relabel id (fun _ => false) (accumEffect l t s) := by
    refine (vscale_relabel id (fun _ => false) l (accumEffect l t s)).trans (congrArg _ ?_)
    rw [ha]
    exact vscale_decayOne hwf hdk
  have hplain : decayEffect l (accumEffect l t s) = accumEffect l t s := by
    rw [ha]
    exact if_pos hmode
  rw [lifstepEffect_eq, lifstepEffect_eq, accum_relabel, lifUpdate, lifUpdate, hleaky, hplain, afterDecay_relabel]

theorem finish_relabel (c : Word → Word) (m : Bool → Bool) (s : State) :
    finish (relabel c m s) = relabel c m (finish s) := rfl

/-- Settles O47: with the rate 1 the decay changes nothing, and no other effect reads IF_MODE. -/
theorem nonLeakyEqualsDecayOne : Obligations.NonLeakyEqualsDecayOne := by
  intro s l t hs hl ht hwf hdk
  have hlatch : latch (encode (.lifstep l t)) { s with regs.ifMode := false } =
      relabel id (fun _ => false) (latch (encode (.lifstep l t)) { s with regs.ifMode := true }) := rfl
  have heff := lifstep_decayOne (l := l) t
    (latch_stale (encode (.lifstep l t)) { s with regs.ifMode := true }) rfl hwf hdk
  refine ⟨_, _, exec_accepted (s := { s with regs.ifMode := true }) hs.1 (acceptError_lifstep hs hl ht),
    exec_accepted (s := { s with regs.ifMode := false }) hs.1 (acceptError_lifstep hs hl ht), ?_⟩
  rw [effectOf, effectOf, hlatch, heff, finish_relabel]
  rfl

/-! ### An Input neuron through a chunk (R138, R148, R150) -/

/-- What neuron `i` of the Input layer takes in at timestep `t`: ONE_SPIKE_CONTRIBUTION where its input bit is set, else
0. -/
def State.inputAt (s : State) (i t : ℕ) : ℤ :=
  if s.sbGet s.regs.status.sel i t = true then s.params.oneSpike.toInt else 0

/-- One timestep of neuron `i` of the Input layer. -/
theorem lifstep_input {s : State} (h : s.stale = []) (hk : s.kind 0 = .input) {i : ℕ} (hi : i < s.neurons 0) (t : ℕ) :
    (lifstepEffect 0 t s).vAt 0 i = wrap32 (lifRest (!s.regs.ifMode) (s.vAt 0 i).toInt (s.dkAt 0 i).toInt
      (s.inputAt i t) (s.thAt 0 i).toInt) ∧
    ∀ t', (lifstepEffect 0 t s).sbGet (otherBuf s.regs.status.sel) i t' =
      if t' = t then lifFires (!s.regs.ifMode) (s.vAt 0 i).toInt (s.dkAt 0 i).toInt (s.inputAt i t) (s.thAt 0 i).toInt
      else s.sbGet (otherBuf s.regs.status.sel) i t' := by
  obtain ⟨⟨m, ha⟩, -, hsum⟩ := accum_exact h (accumFits_input hk t)
  have hx : ((accumEffect 0 t s).sumAt i).toInt = s.inputAt i t := by
    have hin : i < s.nIn 0 := hi
    rw [hsum i hi, toInt_vbiasWord_input hk, zero_add, sum_accumTerm_input hk, State.inputAt]
    simp only [hin, true_and]
  obtain ⟨-, hv, -, hbits, -⟩ := lifUpdate_updates 0 t (accumEffect 0 t s)
  rw [lifstepEffect_eq]
  refine ⟨?_, fun t' => ?_⟩
  · rw [hv, State.lifRestAt, hx, ha]
    exact if_pos ⟨rfl, hi⟩
  · rw [hbits, State.lifFiresAt, hx, ha]
    by_cases ht : t' = t
    · rw [if_pos ht]
      exact if_pos ⟨rfl, hi, ht⟩
    · rw [if_neg ht]
      exact if_neg fun h => ht h.2.2

/-- `lifstep_input` inside a LAYER: what decides the update still stands as it did before the first timestep. -/
theorem lifstep_input_of_keepsOutside {T : ℕ} {s u : State} (hkeep : KeepsOutside 0 T s u) (h : s.stale = [])
    (hk : s.kind 0 = .input) {i : ℕ} (hi : i < s.neurons 0) (t : ℕ) :
    (lifstepEffect 0 t u).vAt 0 i = wrap32 (lifRest (!s.regs.ifMode) (u.vAt 0 i).toInt (s.dkAt 0 i).toInt
      (s.inputAt i t) (s.thAt 0 i).toInt) ∧
    ∀ t', (lifstepEffect 0 t u).sbGet (otherBuf s.regs.status.sel) i t' =
      if t' = t then lifFires (!s.regs.ifMode) (u.vAt 0 i).toInt (s.dkAt 0 i).toInt (s.inputAt i t) (s.thAt 0 i).toInt
      else u.sbGet (otherBuf s.regs.status.sel) i t' := by
  have hbit := hkeep.bits s.regs.status.sel i t (.inl rfl)
  obtain ⟨v, f, m, b0, b1, q, rfl⟩ := hkeep.frame
  rw [State.inputAt, ← hbit]
  exact lifstep_input (s := { s with
    arr.v := v, arr.rf := f, arr.sum := m, arr.sb0 := b0, arr.sb1 := b1, regs.status.ovf := q }) h hk hi t

/-- A property `P` of the potential of Input neuron `i` that each timestep keeps, and the output bits `out` that the
timesteps give, over one LAYER 0. -/
theorem layer_input {s : State} (h : s.stale = []) (hk : s.kind 0 = .input) {i : ℕ} (hi : i < s.neurons 0)
    {P : Word → Prop} {out : ℕ → Bool} (hstart : P (s.vAt 0 i))
    (hstep : ∀ t v, P v →
      P (wrap32 (lifRest (!s.regs.ifMode) v.toInt (s.dkAt 0 i).toInt (s.inputAt i t) (s.thAt 0 i).toInt)) ∧
      lifFires (!s.regs.ifMode) v.toInt (s.dkAt 0 i).toInt (s.inputAt i t) (s.thAt 0 i).toInt = out t) :
    P ((layerEffect 0 s).vAt 0 i) ∧
    ∀ t < s.params.tau, (layerEffect 0 s).sbGet (otherBuf s.regs.status.sel) i t = out t := by
  rw [layerEffect_eq]
  generalize s.params.tau = n
  induction n with
  | zero => exact ⟨hstart, nofun⟩
  | succ n ih =>
    obtain ⟨hP, hout⟩ := ih
    have hkeep := layerSteps_keeps h 0 (le_refl n)
    obtain ⟨hv, hbits⟩ := lifstep_input_of_keepsOutside hkeep h hk hi n
    obtain ⟨hP', hfires⟩ := hstep n _ hP
    rw [layerSteps_succ]
    refine ⟨hv ▸ hP', fun t ht => ?_⟩
    rw [hbits]
    by_cases hlast : t = n
    · rw [if_pos hlast, hfires, hlast]
    · rw [if_neg hlast]
      exact hout t (by omega)

section Ready

variable {s : State} (hs : Ready s) (hl : 0 < s.nLayers) (hk : (s.desc 0).kind = 0) {i : ℕ} (hi : i < s.neurons 0)
include hs hl hk hi

/-- `layer_input` for the command. -/
theorem exec_layer_input {P : Word → Prop} {out : ℕ → Bool} (hstart : P (s.vAt 0 i))
    (hstep : ∀ t v, P v →
      P (wrap32 (lifRest (!s.regs.ifMode) v.toInt (s.dkAt 0 i).toInt (s.inputAt i t) (s.thAt 0 i).toInt)) ∧
      lifFires (!s.regs.ifMode) v.toInt (s.dkAt 0 i).toInt (s.inputAt i t) (s.thAt 0 i).toInt = out t) :
    ∃ u, exec (.layer 0) s = .next u ∧ P (u.vAt 0 i) ∧
      ∀ t < s.params.tau, u.sbGet (otherBuf s.regs.status.sel) i t = out t := by
  obtain ⟨hP, hout⟩ := layer_input (latch_stale (encode (.layer 0)) s) (kind_of_code_zero hk) hi hstart hstep
  exact ⟨_, exec_accepted hs.1 (acceptError_layer hs hl), hP, hout⟩

end Ready

theorem wrapInt_of_fits32 {r : ℤ} (h : fits32 r = true) : wrapInt r = r := toInt_wrap32_of_fits32 h

/-- One step from potential 0 of a neuron whose input is its threshold or 0. -/
theorem lif_passthrough (leaky : Bool) (d : ℤ) {th x : ℤ} (hpos : 0 < th) (hfit : fits32 th = true)
    (hx : x = th ∨ x = 0) :
    lifRest leaky 0 d x th = 0 ∧ lifFires leaky 0 d x th = decide (x = th) := by
  have hdecayed : lifDecayed leaky 0 d = 0 := by
    cases leaky <;> simp [lifDecayed]
  have hsummed : lifSummed leaky 0 d x = x := by
    rw [lifSummed, hdecayed]
    exact zero_add x
  have hwrap : wrapInt x = x := by
    obtain rfl | rfl := hx
    · exact wrapInt_of_fits32 hfit
    · rfl
  have hfires : lifFires leaky 0 d x th = decide (x = th) := by
    rw [lifFires, hsummed, hwrap]
    exact decide_eq_decide.2 (by omega)
  refine ⟨?_, hfires⟩
  rw [lifRest, hfires, hsummed, hwrap]
  obtain rfl | rfl := hx
  · simp
  · simp [hpos.ne]

/-- Settles O48: the potential stays 0, and the neuron fires exactly when it takes its threshold in. -/
theorem inputPassthrough : Obligations.InputPassthrough := by
  intro s i hs hl hk hi hv hth hpos
  refine exec_layer_input hs hl hk hi (P := fun v => v = 0) (out := s.sbGet s.regs.status.sel i) hv ?_
  rintro t _ rfl
  rw [hth]
  have hx : s.inputAt i t = s.params.oneSpike.toInt ∨ s.inputAt i t = 0 := by
    rw [State.inputAt]
    exact ite_eq_or_eq ..
  obtain ⟨hrest, hfires⟩ :=
    lif_passthrough (!s.regs.ifMode) (s.dkAt 0 i).toInt hpos (fits32_toInt s.params.oneSpike) hx
  refine ⟨congrArg wrap32 hrest, hfires.trans ?_⟩
  rw [State.inputAt]
  by_cases hbit : s.sbGet s.regs.status.sel i t = true
  · simp [hbit]
  · simp [hbit, hpos.ne]

/-- One step of a leaky neuron within the bound of R150 (b): `v * d / 128 + x` is within it again, and below the
threshold. -/
theorem lif_subThreshold {v d x c th : ℤ} (hd : 0 ≤ d) (hd' : d < 128) (hv : 0 ≤ v) (hvc : (128 - d) * v ≤ 128 * c)
    (hx : 0 ≤ x) (hxc : x ≤ c) (hbound : 128 * c < (128 - d) * th) (hth : th ≤ 32767) :
    fits32 (v * d / 128 + x) = true ∧ lifRest true v d x th = v * d / 128 + x ∧ lifFires true v d x th = false ∧
      0 ≤ v * d / 128 + x ∧ (128 - d) * (v * d / 128 + x) ≤ 128 * c := by
  have hdecay : 0 ≤ v * d / 128 := Int.ediv_nonneg (mul_nonneg hv hd) (by norm_num)
  have hfloor : 128 * (v * d / 128) ≤ v * d := Int.mul_ediv_self_le (by norm_num)
  generalize hq : v * d / 128 = w at hdecay hfloor ⊢
  have hdecayed : 128 * ((128 - d) * w) ≤ 128 * (d * c) :=
    calc 128 * ((128 - d) * w) = (128 - d) * (128 * w) := by ring
      _ ≤ (128 - d) * (v * d) := mul_le_mul_of_nonneg_left hfloor (by omega)
      _ = d * ((128 - d) * v) := by ring
      _ ≤ d * (128 * c) := mul_le_mul_of_nonneg_left hvc hd
      _ = 128 * (d * c) := by ring
  have hnext : (128 - d) * (w + x) ≤ 128 * c :=
    calc (128 - d) * (w + x) = (128 - d) * w + (128 - d) * x := by ring
      _ ≤ d * c + (128 - d) * c :=
        add_le_add (by linarith only [hdecayed]) (mul_le_mul_of_nonneg_left hxc (by omega))
      _ = 128 * c := by ring
  have hlow : w + x < th := lt_of_mul_lt_mul_left (hnext.trans_lt hbound) (by omega)
  have hfit : ∀ r, 0 ≤ r → r ≤ w + x → fits32 r = true := fun r h0 hr => decide_eq_true (by omega)
  have hwrap := wrapInt_of_fits32 (hfit (w + x) (by omega) le_rfl)
  have hsummed : lifSummed true v d x = w + x := by
    rw [lifSummed, lifDecayed, if_pos rfl, hq, wrapInt_of_fits32 (hfit w hdecay (by omega))]
  have hfires : lifFires true v d x th = false := by
    rw [lifFires, hsummed, hwrap]
    exact decide_eq_false (by omega)
  refine ⟨hfit _ (by omega) le_rfl, ?_, hfires, by omega, hnext⟩
  rw [lifRest, hfires, hsummed, hwrap]
  exact sub_zero _

/-- The potential is at least 0 and at most `128 * c / (128 - d)`, the bound of R150 (b). -/
def BelowBound (d c : ℤ) (v : Word) : Prop := 0 ≤ v.toInt ∧ (128 - d) * v.toInt ≤ 128 * c

/-- Settles O49: the bound of R150 (b) is kept by every timestep, and a potential within it is below the threshold. -/
theorem subThresholdNeverFires : Obligations.SubThresholdNeverFires := by
  rintro s i d c th hs hl hk hmode hi hv rfl rfl rfl hd hd' hc hbound
  have hstart : BelowBound (s.dkAt 0 i).toInt s.params.oneSpike.toInt (s.vAt 0 i) := by
    rw [hv]
    exact ⟨le_rfl, by simpa using hc⟩
  obtain ⟨u, hexec, ⟨hu, huc⟩, hbits⟩ := exec_layer_input hs hl hk hi (out := fun _ => false) hstart
    fun t v ⟨hv, hvc⟩ => by
    have hx : 0 ≤ s.inputAt i t ∧ s.inputAt i t ≤ s.params.oneSpike.toInt := by
      rw [State.inputAt]
      split <;> omega
    obtain ⟨hfit, hrest, hfires, hnext⟩ :=
      lif_subThreshold hd hd' hv hvc hx.1 hx.2 hbound (toInt_half_bounds _).2
    rw [hmode]
    refine ⟨?_, hfires⟩
    rw [Bool.not_false, hrest, BelowBound, toInt_wrap32_of_fits32 hfit]
    exact hnext
  exact ⟨u, hexec, hbits, hu, huc⟩

end Sys2Proof.Machine
end

section
/-! The system commands NOP, ZERO, CLRCNT and INIT (spec/45_pipeline.md R155 to R160) and VCLR (spec/42_alu.md R125):
INIT's chain of checks is a search for the first of R157's checks that fails, layer by layer. -/

namespace Sys2Proof.Machine

/-! ### NOP and the clearing commands (R155, R159, R160, R125) -/

/-- In FATAL every command but SRST is refused (spec/30_encoding.md R89 step 2). -/
theorem exec_fatal {s : State} (hb : s.regs.status.busy = false) (hf : s.regs.status.fatal = true) {i : Instr}
    (hi : i ≠ .srst) : exec i s = .next (refusedState i s) := by
  rw [exec_eq_issue, issue_refused hb (e := { kind := .state, info := encode i }) (if_pos ⟨hf, hi⟩)]
  rfl

theorem encode_nop : encode .nop = 0 := by decide

/-- Settles O23. -/
theorem nopChangesOnlyCmd : Obligations.NopChangesOnlyCmd := by
  intro s hb
  constructor
  · intro hf
    have hs : Idle s := ⟨hb, hf⟩
    have hok : acceptError .nop s = none := acceptError_of_checks hs nofun nofun nofun rfl rfl
    rw [exec_accepted hs hok, effectOf, nopEffect, finish_latch hs, issued, encode_nop]
  · exact fun hf => exec_fatal hb hf nofun

/-- An accepted command whose effects write the arrays only. -/
theorem exec_arraysOnly {s : State} (hs : Idle s) {i : Instr} {a : Arrays} (hok : acceptError i s = none)
    (heff : effectOf i (latch (encode i) s) = { latch (encode i) s with arr := a }) :
    exec i s = .next { issued i s with arr := a } := by
  rw [exec_accepted hs hok, heff, ← finish_latch hs]
  rfl

/-- Settles O25: a table that lists nothing reads 0 everywhere. -/
theorem clearCommands : Obligations.ClearCommands := by
  intro s hs
  have hzero : acceptError .zero s = none := acceptError_of_checks hs nofun nofun nofun rfl rfl
  have hclrcnt : acceptError .clrcnt s = none := acceptError_of_checks hs nofun nofun nofun rfl rfl
  have hvclr : acceptError .vclr s = none := acceptError_of_checks hs nofun nofun nofun rfl rfl
  refine ⟨?_, ?_, ?_⟩
  · exact ⟨_, exec_arraysOnly hs hzero rfl, rfl, fun _ _ => ⟨rfl, rfl⟩⟩
  · exact ⟨_, exec_arraysOnly hs hclrcnt rfl, rfl, fun _ _ => rfl⟩
  · exact ⟨_, exec_arraysOnly hs hvclr rfl, rfl, fun _ => rfl⟩

/-! ### INIT's checks of one layer (R157) -/

/-- The four codes of KIND (R39). -/
theorem kindOf_eq_iff : ∀ k : BitVec 2, (kindOf k = .input ↔ k = 0) ∧ (kindOf k = .conv ↔ k = 1) ∧
    (kindOf k = .fullyConnected ↔ k = 2) ∧ (kindOf k = .reserved ↔ k = 3) := by
  decide

theorem toNat_eq_zero_iff {w : ℕ} (x : BitVec w) : x.toNat = 0 ↔ x = 0 := BitVec.toNat_inj (y := 0)

section Layer

variable (s : State) (l : ℕ)

theorem kind_eq_input_iff : s.kind l = .input ↔ (s.desc l).kind = 0 := (kindOf_eq_iff _).1

theorem kind_eq_conv_iff : s.kind l = .conv ↔ (s.desc l).kind = 1 := (kindOf_eq_iff _).2.1

theorem kind_eq_fullyConnected_iff : s.kind l = .fullyConnected ↔ (s.desc l).kind = 2 := (kindOf_eq_iff _).2.2.1

theorem kind_eq_reserved_iff : s.kind l = .reserved ↔ (s.desc l).kind = 3 := (kindOf_eq_iff _).2.2.2

theorem badReference_iff : badReference l s = true ↔ CfgCheckFails s 5 l := by
  simp only [badReference, CfgCheckFails, kind_eq_input_iff, State.wbase, State.bbase, ne_eq, toNat_eq_zero_iff,
    Bool.ite_eq_true_distrib, decide_eq_true_eq, ite_prop_iff_or]

theorem badGeometry_iff : badGeometry l s = true ↔ CfgCheckFails s 6 l := by
  simp only [badGeometry, CfgCheckFails, decide_eq_true_eq, kind_eq_conv_iff, State.outSide, sq]

theorem badTables_iff : badTables l s = true ↔ CfgCheckFails s 7 l := by
  simp only [badTables, CfgCheckFails, decide_eq_true_eq, kind_eq_conv_iff, kind_eq_fullyConnected_iff, gt_iff_lt]

open Classical in
/-- The chain of checks of a layer is a search for the first of R157's checks that fails. -/
theorem layerCfgError_eq_find :
    layerCfgError l s = (List.range' 2 6).find? (fun sub => decide (CfgCheckFails s sub l)) := by
  have h2 : s.kind l = .reserved ↔ CfgCheckFails s 2 l := kind_eq_reserved_iff s l
  have h3 : (l = 0 ∧ s.kind l ≠ .input) ∨ (0 < l ∧ s.kind l = .input) ↔ CfgCheckFails s 3 l := by
    rw [ne_eq, kind_eq_input_iff]
    rfl
  have h4 : s.neurons l = 0 ∨ s.params.maxNeurons < s.neurons l ↔ CfgCheckFails s 4 l := Iff.rfl
  simp only [layerCfgError, h2, h3, h4, badReference_iff, badGeometry_iff, badTables_iff, List.range', List.find?]
  -- Both sides now test the same six checks in the same order.
  repeat' split
  all_goals simp_all

variable {s l}

theorem layerCfgError_eq_none (h : ∀ sub, ¬CfgCheckFails s sub l) : layerCfgError l s = none := by
  simp [layerCfgError_eq_find, h]

theorem layerCfgError_eq_some {sub : ℕ} (h : CfgCheckFails s sub l)
    (hfirst : ∀ sub' < sub, ¬CfgCheckFails s sub' l) : layerCfgError l s = some sub := by
  classical
  have hsub : 2 ≤ sub ∧ sub < 8 := by
    unfold CfgCheckFails at h
    split at h
    case h_7 => exact h.elim
    all_goals omega
  rw [layerCfgError_eq_find, List.find?_range'_eq_some]
  exact ⟨decide_eq_true h, List.mem_range'_1.2 (by omega), fun j _ hj => by simpa using hfirst j hj⟩

end Layer

/-! ### INIT's checks of the whole configuration (R157) -/

/-- A search over `0 .. n - 1` stops at the first number that answers. -/
theorem findSome?_range_eq_some {β : Type} {f : ℕ → Option β} {n l : ℕ} {b : β} (hl : l < n) (hf : f l = some b)
    (hfirst : ∀ m < l, f m = none) : (List.range n).findSome? f = some b := by
  induction n with
  | zero => exact absurd hl (Nat.not_lt_zero l)
  | succ n ih =>
    rw [List.range_succ, List.findSome?_append]
    by_cases h : l < n
    · rw [ih h, Option.some_or]
    · obtain rfl : l = n := by omega
      have hnone : (List.range l).findSome? f = none :=
        List.findSome?_eq_none_iff.2 fun m hm => hfirst m (List.mem_range.1 hm)
      simp [hnone, hf]

section Configuration

variable {s : State}

theorem cfgError_eq_none (hcount : 1 ≤ s.nLayers) (hmax : s.nLayers ≤ s.params.maxLayers)
    (hpass : ∀ l < s.nLayers, ∀ sub, ¬CfgCheckFails s sub l) : cfgError s = none := by
  rw [cfgError, if_neg (by omega), List.findSome?_eq_none_iff]
  intro l hl
  rw [layerCfgError_eq_none (hpass l (List.mem_range.1 hl)), Option.map_none]

theorem cfgError_eq_some (hcount : 1 ≤ s.nLayers) (hmax : s.nLayers ≤ s.params.maxLayers) {sub l : ℕ}
    (h : FirstCfgFailure s sub l) : cfgError s = some (sub, l) := by
  obtain ⟨hl, hfails, hsub, hearlier⟩ := h
  rw [cfgError, if_neg (by omega)]
  refine findSome?_range_eq_some hl ?_ fun m hm => ?_
  · rw [layerCfgError_eq_some hfails hsub, Option.map_some]
  · rw [layerCfgError_eq_none (hearlier m hm), Option.map_none]

/-- On an idle, unconfigured unit only the configuration checks decide whether INIT is accepted. -/
theorem acceptError_init (hs : Idle s) (hconf : s.regs.status.configured = false) :
    acceptError .init s = (cfgError s).map (fun p => { kind := .cfg, info := cfgInfo p }) := by
  simp [acceptError, lastChecks, hs.2, hconf, needsConfigured, operandsInRange, sourceInRange]

theorem exec_init_refused (hs : Idle s) (hconf : s.regs.status.configured = false) {sub l : ℕ}
    (h : cfgError s = some (sub, l)) : exec .init s = .next (refusedCfg sub l s) := by
  rw [exec_eq_issue, issue_refused hs.1 (by rw [acceptError_init hs hconf, h]; rfl)]
  rfl

end Configuration

/-- Settles O22: sub 1 before the layers' checks, then the first failing check of the first failing layer. -/
theorem badConfigurationRefused : Obligations.BadConfigurationRefused := by
  intro s hs hconf
  constructor
  · intro hcount
    exact exec_init_refused hs hconf (if_pos hcount)
  · intro hcount hmax sub l hfirst
    exact exec_init_refused hs hconf (cfgError_eq_some hcount hmax hfirst)

/-- Settles O24: the broadcast over the configured layers, then CONFIGURED. -/
theorem initBroadcastsAndConfigures : Obligations.InitBroadcastsAndConfigures := by
  intro s hs hconf hcount hmax hpass
  have hok : acceptError .init s = none := by
    rw [acceptError_init hs hconf, cfgError_eq_none hcount hmax hpass, Option.map_none]
  obtain ⟨⟨m, d, hframe⟩, hbroadcast⟩ := initLayers_spec s.nLayers (latch (encode .init) s)
  refine ⟨_, exec_accepted hs hok, ?_, hbroadcast⟩
  rw [effectOf, initEffect, show (latch (encode .init) s).nLayers = s.nLayers from rfl, hframe, ← finish_latch hs]
  rfl

end Sys2Proof.Machine
end

section
/-! Counting and classification (spec/45_pipeline.md R161, R162): a row of COUNT adds a bit to each neuron's count, and
RESULT is the first place where the greatest total stands. -/

namespace Sys2Proof.Machine

/-! ### COUNT (R161) -/

/-- The bit of neuron `i` in row `t` of buffer A, as a number. -/
def State.bitA (s : State) (t i : ℕ) : ℕ := if s.sbGet s.regs.status.sel i t = true then 1 else 0

/-- From `s` to `t`, the number `b i` is added to every `COUNTS[i][c]` modulo 2^32, OVF gathers the wraps, and nothing
else changes. -/
structure AddsToCounts (c : ℕ) (b : ℕ → ℕ) (s t : State) : Prop where
  frame : ∃ m o, t = { s with arr.counts := m, regs.status.ovf := o }
  countAt : ∀ i c', t.countAt i c' =
    if c' = c then BitVec.ofNat 32 ((s.countAt i c).toNat + b i) else s.countAt i c'
  ovf : t.regs.status.ovf = true ↔ s.regs.status.ovf = true ∨ ∃ i, 2 ^ 32 ≤ (s.countAt i c).toNat + b i

/-- No count reaches 2^32 by itself. -/
theorem not_wraps_countAt (s : State) (i c : ℕ) : ¬2 ^ 32 ≤ (s.countAt i c).toNat := not_le.2 (s.countAt i c).isLt

/-- A sum passes 2^32 exactly when its first part does, or the rest does on top of what is left of the first part. -/
theorem wraps_add_iff (x m n : ℕ) : 2 ^ 32 ≤ x + (m + n) ↔ 2 ^ 32 ≤ x + m ∨ 2 ^ 32 ≤ (x + m) % 2 ^ 32 + n := by
  omega

section Adds

variable {c : ℕ} {b b' : ℕ → ℕ} {s t u : State}

theorem AddsToCounts.zero (c : ℕ) (s : State) : AddsToCounts c (fun _ => 0) s s where
  frame := ⟨s.arr.counts, s.regs.status.ovf, rfl⟩
  countAt i c' := by by_cases h : c' = c <;> simp [h]
  ovf := by simp only [add_zero, not_wraps_countAt, exists_false, or_false]

theorem AddsToCounts.trans (h : AddsToCounts c b s t) (h' : AddsToCounts c b' t u) :
    AddsToCounts c (fun i => b i + b' i) s u where
  frame := by
    obtain ⟨m, o, rfl⟩ := h.frame
    obtain ⟨m', o', rfl⟩ := h'.frame
    exact ⟨m', o', rfl⟩
  countAt i c' := by
    rw [h'.countAt, h.countAt, h.countAt]
    by_cases hc : c' = c
    · simp only [if_pos hc, if_true, BitVec.ofNat_add, BitVec.ofNat_toNat, BitVec.setWidth_eq, add_assoc]
    · simp only [if_neg hc]
  ovf := by
    simp only [h'.ovf, h.ovf, h.countAt, if_true, BitVec.toNat_ofNat, wraps_add_iff, exists_or, or_assoc]

theorem AddsToCounts.congr (h : AddsToCounts c b s t) (hb : ∀ i, b i = b' i) : AddsToCounts c b' s t := by
  rwa [← funext hb]

/-- Adding to the counts leaves the spike buffers and their roles. -/
theorem AddsToCounts.bitA (h : AddsToCounts c b s t) (r i : ℕ) : t.bitA r i = s.bitA r i := by
  obtain ⟨m, o, rfl⟩ := h.frame
  rfl

end Adds

/-- A count wraps somewhere exactly when one of the counts that gains something wraps. -/
theorem exists_wraps_ite (s : State) (c : ℕ) (w : ℕ → Prop) [DecidablePred w] (b : ℕ → ℕ) :
    (∃ i, 2 ^ 32 ≤ (s.countAt i c).toNat + if w i then b i else 0) ↔
      ∃ i, w i ∧ 2 ^ 32 ≤ (s.countAt i c).toNat + b i := by
  refine exists_congr fun i => ?_
  by_cases h : w i
  · rw [if_pos h, and_iff_right h]
  · rw [if_neg h, add_zero]
    exact iff_of_false (not_wraps_countAt s i c) fun hw => h hw.1

theorem bumpCount_adds (i c : ℕ) (s : State) :
    AddsToCounts c (fun j => if j = i then 1 else 0) s (bumpCount i c s) where
  frame := ⟨_, _, rfl⟩
  countAt j c' := by
    rw [bumpCount, orOvf_countAt, setCount_countAt]
    by_cases hc : c' = c <;> by_cases hj : j = i <;> simp [hc, hj, BitVec.ofNat_add]
  ovf := by
    have hmax : ∀ x : Word, x = 0xFFFFFFFF ↔ 2 ^ 32 ≤ x.toNat + 1 := by bv_omega
    rw [exists_wraps_ite s c (· = i) (fun _ => 1), bumpCount, orOvf_ovf, Bool.or_eq_true, decide_eq_true_iff, hmax]
    simp

theorem countBit_adds (c t : ℕ) (s : State) (i : ℕ) :
    AddsToCounts c (fun j => if j = i then s.bitA t j else 0) s (countBit c t s i) := by
  have hstep : countBit c t s i = if s.sbGet s.regs.status.sel i t = true then bumpCount i c s else s := rfl
  rw [hstep]
  by_cases h : s.sbGet s.regs.status.sel i t = true
  · have hbit : s.bitA t i = 1 := if_pos h
    rw [if_pos h]
    exact (bumpCount_adds i c s).congr fun j => by by_cases hj : j = i <;> simp [hj, hbit]
  · have hbit : s.bitA t i = 0 := if_neg h
    rw [if_neg h]
    exact (AddsToCounts.zero c s).congr fun j => by by_cases hj : j = i <;> simp [hj, hbit]

/-- One row of COUNT. -/
theorem countRow_adds (c t n : ℕ) (s : State) :
    AddsToCounts c (fun j => if j < n then s.bitA t j else 0) s ((List.range n).foldl (countBit c t) s) := by
  induction n with
  | zero => simpa using AddsToCounts.zero c s
  | succ n ih =>
    rw [List.range_succ, List.foldl_append, List.foldl_cons, List.foldl_nil]
    refine (ih.trans (countBit_adds c t _ n)).congr fun j => ?_
    rw [ih.bitA]
    have hsplit : j < n + 1 ↔ j < n ∨ j = n := Nat.lt_succ_iff_lt_or_eq
    by_cases hj : j = n <;> simp [hsplit, hj]

/-- The number of set bits of neuron `i` in the first `m` rows of buffer A. -/
def State.setBits (s : State) (m i : ℕ) : ℕ :=
  ((List.range m).filter (fun t => s.sbGet s.regs.status.sel i t)).length

theorem setBits_succ (s : State) (m i : ℕ) : s.setBits (m + 1) i = s.setBits m i + s.bitA m i := by
  unfold State.setBits State.bitA
  rw [List.range_succ, List.filter_append, List.length_append]
  cases h : s.sbGet s.regs.status.sel i m <;> simp [h]

/-- COUNT adds each neuron's set bits to its count of the chunk (R161), in every state. -/
theorem count_adds (c : ℕ) (s : State) :
    AddsToCounts c (fun i => if i < s.neurons s.lastLayer then s.setBits s.params.tau i else 0) s
      (countEffect c s) := by
  unfold countEffect
  generalize s.params.tau = m
  induction m with
  | zero => simpa [State.setBits] using AddsToCounts.zero c s
  | succ m ih =>
    rw [List.range_succ, List.foldl_append, List.foldl_cons, List.foldl_nil]
    refine (ih.trans (countRow_adds c m _ _)).congr fun i => ?_
    obtain ⟨k, o, hframe⟩ := ih.frame
    rw [ih.bitA, hframe, setBits_succ]
    change _ + (if i < s.neurons s.lastLayer then _ else 0) = _
    by_cases hi : i < s.neurons s.lastLayer <;> simp [hi]

theorem acceptError_count {s : State} (hs : Ready s) {c : ℕ} (hc : c < s.params.nChunks) :
    acceptError (.count c) s = none :=
  acceptError_of_checks hs.1 nofun nofun (fun _ => hs.2) (decide_eq_true hc) rfl

theorem acceptError_classify {s : State} (hs : Ready s) : acceptError .classify s = none :=
  acceptError_of_checks hs.1 nofun nofun (fun _ => hs.2) rfl rfl

/-- Settles O50: COUNT's additions; a neuron that gains nothing keeps its count and wraps nowhere. -/
theorem countCountsSetBits : Obligations.CountCountsSetBits := by
  rintro s c _ bits hs hc rfl hbits
  obtain rfl : bits = s.setBits s.params.tau := funext hbits
  obtain ⟨⟨m, o, hframe⟩, hcount, hovf⟩ : AddsToCounts c
      (fun i => if i < s.neurons (s.nLayers - 1) then s.setBits s.params.tau i else 0)
      (latch (encode (.count c)) s) (countEffect c (latch (encode (.count c)) s)) :=
    count_adds c (latch (encode (.count c)) s)
  refine ⟨_, exec_accepted hs.1 (acceptError_count hs hc), ?_, fun i c' => (hcount i c').trans ?_⟩
  · have ho : o = (s.regs.status.ovf || (List.range (s.neurons (s.nLayers - 1))).any
        (fun i => decide (2 ^ 32 ≤ (s.countAt i c).toNat + s.setBits s.params.tau i))) := by
      rw [hframe, exists_wraps_ite] at hovf
      rw [Bool.eq_iff_iff, Bool.or_eq_true, List.any_eq_true]
      simp only [List.mem_range, decide_eq_true_eq]
      exact hovf
    rw [effectOf, hframe, ho, ← finish_latch hs.1]
    rfl
  · have hcounts : ∀ j d, (latch (encode (.count c)) s).countAt j d = s.countAt j d := fun _ _ => rfl
    by_cases hc' : c' = c <;> by_cases hi : i < s.neurons (s.nLayers - 1) <;> simp [hc', hi, hcounts]

/-! ### CLASSIFY (R162) -/

theorem foldl_max_le_iff {α : Type} (f : α → ℕ) (xs : List α) (a b : ℕ) :
    xs.foldl (fun m x => max m (f x)) a ≤ b ↔ a ≤ b ∧ ∀ x ∈ xs, f x ≤ b := by
  induction xs generalizing a with
  | nil => simp
  | cons x xs ih => rw [List.foldl_cons, ih, max_le_iff, List.forall_mem_cons, and_assoc]

section Totals

variable {s : State}

theorem maxTotal_le_iff {b : ℕ} : s.maxTotal ≤ b ↔ ∀ i < s.neurons s.lastLayer, s.total i ≤ b := by
  simp [State.maxTotal, foldl_max_le_iff]

theorem maxTotal_eq_total {i : ℕ} (hi : i < s.neurons s.lastLayer)
    (hmax : ∀ j < s.neurons s.lastLayer, s.total j ≤ s.total i) : s.maxTotal = s.total i :=
  le_antisymm (maxTotal_le_iff.2 hmax) (maxTotal_le_iff.1 le_rfl i hi)

theorem classOf_of_totals_zero (h : ∀ i < s.neurons s.lastLayer, s.total i = 0) : s.classOf = 0x80000000 :=
  if_pos (Nat.le_zero.1 (maxTotal_le_iff.2 fun i hi => (h i hi).le))

theorem classOf_of_least_argmax {i : ℕ} (hi : i < s.neurons s.lastLayer) (hpos : 0 < s.total i)
    (hmax : ∀ j < s.neurons s.lastLayer, s.total j ≤ s.total i) (hleast : ∀ j < i, s.total j < s.total i) :
    s.classOf = BitVec.ofNat 32 i := by
  have hfind : (List.range (s.neurons s.lastLayer)).find? (fun j => decide (s.total j = s.maxTotal)) = some i := by
    rw [List.find?_range_eq_some, maxTotal_eq_total hi hmax]
    exact ⟨decide_eq_true rfl, List.mem_range.2 hi, fun j hj => by simpa using (hleast j hj).ne⟩
  rw [State.classOf, if_neg (by rw [maxTotal_eq_total hi hmax]; exact hpos.ne'), hfind]

end Totals

theorem total_eq_sum (s : State) (i : ℕ) :
    s.total i = ∑ c ∈ Finset.range s.params.nChunks, (s.countAt i c).toNat := rfl

/-- Settles O51: RESULT is `classOf`, and acceptance changes no count. -/
theorem classifyIsLeastArgmax : Obligations.ClassifyIsLeastArgmax := by
  rintro s _ total hs rfl htotal
  obtain rfl : total = s.total := funext fun i => (htotal i).trans (total_eq_sum s i).symm
  refine ⟨s.classOf, ?_, classOf_of_totals_zero, fun _ => classOf_of_least_argmax⟩
  rw [exec_accepted hs.1 (acceptError_classify hs), ← finish_latch hs.1]
  rfl

end Sys2Proof.Machine
end

section
/-! Sequences of commands (spec/45_pipeline.md R167): acceptance does not look at what an inference changes and no
effect but SRST's reads CMD, so commands issued one after the other leave what their effects leave in a row; LIFSTEP and
RUN are such rows.  What an inference changes is one relation, which counts the swaps. -/

namespace Sys2Proof.Machine

/-! ### What the commands of an inference change (R163) -/

/-- `t` has the parameters, topology, IF_MODE, SRC_BASE, thresholds, decay rates and TMEM of `s`, and the same replaced
bytes. -/
def SameSetup (s t : State) : Prop :=
  ∃ (r : Regs) (a : Arrays) (d : ℕ) (x : Word) (ins : List Input), t = { s with
    regs := { r with
      nlayers := s.regs.nlayers, layers := s.regs.layers, ifMode := s.regs.ifMode, srcBase := s.regs.srcBase },
    arr := { a with th := s.arr.th, dk := s.arr.dk }, draws := d, rdata := x, inputs := ins }

/-- `t` differs from `s` at most in V, RF, SUM, COUNTS, the buffers, RESULT and OVF, and SEL is toggled `n` times. -/
def InferenceChanges (n : ℕ) (s t : State) : Prop :=
  ∃ v f m k b0 b1 r q, t = { s with
    arr.v := v, arr.rf := f, arr.sum := m, arr.counts := k, arr.sb0 := b0, arr.sb1 := b1, regs.result := r,
    regs.status.ovf := q, regs.status.sel := otherBuf^[n] s.regs.status.sel }

section Relations

variable {s t u : State} {m n : ℕ}

theorem SameSetup.refl (s : State) : SameSetup s s := ⟨s.regs, s.arr, s.draws, s.rdata, s.inputs, rfl⟩

theorem SameSetup.symm (h : SameSetup s t) : SameSetup t s := by
  obtain ⟨r, a, d, x, ins, rfl⟩ := h
  exact ⟨s.regs, s.arr, s.draws, s.rdata, s.inputs, rfl⟩

theorem SameSetup.trans (h : SameSetup s t) (h' : SameSetup t u) : SameSetup s u := by
  obtain ⟨r, a, d, x, ins, rfl⟩ := h
  obtain ⟨r', a', d', x', ins', rfl⟩ := h'
  exact ⟨r', a', d', x', ins', rfl⟩

theorem SameSetup.stale (h : SameSetup s t) : t.stale = s.stale := by
  obtain ⟨r, a, d, x, ins, rfl⟩ := h
  rfl

theorem SameSetup.nLayers (h : SameSetup s t) : t.nLayers = s.nLayers := by
  obtain ⟨r, a, d, x, ins, rfl⟩ := h
  rfl

theorem SameSetup.params (h : SameSetup s t) : t.params = s.params := by
  obtain ⟨r, a, d, x, ins, rfl⟩ := h
  rfl

theorem InferenceChanges.sameSetup (h : InferenceChanges n s t) : SameSetup s t := by
  obtain ⟨v, f, m, k, b0, b1, r, q, rfl⟩ := h
  exact ⟨{ s.regs with
      result := r, status := { s.regs.status with ovf := q, sel := otherBuf^[n] s.regs.status.sel } },
    { s.arr with v := v, rf := f, sum := m, counts := k, sb0 := b0, sb1 := b1 }, s.draws, s.rdata, s.inputs, rfl⟩

theorem InferenceChanges.configured (h : InferenceChanges n s t) :
    t.regs.status.configured = s.regs.status.configured := by
  obtain ⟨v, f, m, k, b0, b1, r, q, rfl⟩ := h
  rfl

theorem InferenceChanges.refl (s : State) : InferenceChanges 0 s s :=
  ⟨s.arr.v, s.arr.rf, s.arr.sum, s.arr.counts, s.arr.sb0, s.arr.sb1, s.regs.result, s.regs.status.ovf, rfl⟩

theorem InferenceChanges.trans (h : InferenceChanges n s t) (h' : InferenceChanges m t u) :
    InferenceChanges (m + n) s u := by
  obtain ⟨v, f, m, k, b0, b1, r, q, rfl⟩ := h
  obtain ⟨v', f', m', k', b0', b1', r', q', rfl⟩ := h'
  refine ⟨v', f', m', k', b0', b1', r', q', ?_⟩
  rw [Function.iterate_add_apply]

/-- A loop whose every iteration toggles SEL `n` times. -/
theorem InferenceChanges.foldl {α : Type} {f : State → α → State}
    (h : ∀ u x, SameSetup s u → InferenceChanges n u (f u x)) (xs : List α) :
    InferenceChanges (xs.length * n) s (xs.foldl f s) := by
  induction xs generalizing s with
  | nil => simpa using InferenceChanges.refl s
  | cons x xs ih =>
    have hfirst := h s x (SameSetup.refl s)
    have hrest := ih fun u y hu => h u y (hfirst.sameSetup.trans hu)
    rw [List.length_cons, Nat.succ_mul]
    exact hfirst.trans hrest

/-- An even number of swaps restores the roles, an odd one exchanges them. -/
theorem iterate_otherBuf (n : ℕ) (k : Buf) : otherBuf^[n] k = if n % 2 = 0 then k else otherBuf k := by
  have hinv : Function.Involutive otherBuf := otherBuf_otherBuf
  obtain h | h := Nat.mod_two_eq_zero_or_one n
  · rw [if_pos h, hinv.iterate_even (Nat.even_iff.2 h), id]
  · rw [if_neg (by omega), hinv.iterate_odd (Nat.odd_iff.2 h)]

end Relations

section Commands

variable {s : State}

theorem zero_changes (s : State) : InferenceChanges 0 s (zeroEffect s) := ⟨_, _, _, _, _, _, _, _, rfl⟩

theorem clrcnt_changes (s : State) : InferenceChanges 0 s (clrcntEffect s) := ⟨_, _, _, _, _, _, _, _, rfl⟩

theorem vclr_changes (s : State) : InferenceChanges 0 s (vclrEffect s) := ⟨_, _, _, _, _, _, _, _, rfl⟩

theorem swap_changes (s : State) : InferenceChanges 1 s (swapEffect s) := ⟨_, _, _, _, _, _, _, _, rfl⟩

theorem classify_changes (s : State) : InferenceChanges 0 s (classifyEffect s) := ⟨_, _, _, _, _, _, _, _, rfl⟩

theorem mapLanes_changes (l n : ℕ) (f : ℕ → Option (Word × Bool)) (s : State) :
    InferenceChanges 0 s (mapLanes l n f s) := by
  obtain ⟨v, o, h⟩ := mapLanes_frame l n f s
  exact ⟨_, _, _, _, _, _, _, _, h⟩

theorem vcmp_changes (l : ℕ) (s : State) : InferenceChanges 0 s (vcmpEffect l s) := by
  obtain ⟨m, h⟩ := vcmp_frame l s
  exact ⟨_, _, _, _, _, _, _, _, h⟩

theorem vpack_changes (l t : ℕ) (s : State) : InferenceChanges 0 s (vpackEffect l t s) := by
  obtain ⟨b0, b1, h⟩ := vpack_frame l t s
  exact ⟨_, _, _, _, _, _, _, _, h⟩

theorem count_changes (c : ℕ) (s : State) : InferenceChanges 0 s (countEffect c s) := by
  obtain ⟨m, o, h⟩ := (count_adds c s).frame
  exact ⟨_, _, _, _, _, _, _, _, h⟩

theorem KeepsOutside.changes {l T : ℕ} {s u : State} (h : KeepsOutside l T s u) : InferenceChanges 0 s u := by
  obtain ⟨v, f, m, b0, b1, q, hm⟩ := h.frame
  exact ⟨_, _, _, _, _, _, _, _, hm⟩

section Stable

variable (h : s.stale = [])
include h

theorem vbias_changes (l : ℕ) : InferenceChanges 0 s (vbiasEffect l s) := by
  obtain ⟨m, hm⟩ := (vbias_sets h l).frame
  exact ⟨_, _, _, _, _, _, _, _, hm⟩

theorem evacc_changes (l j : ℕ) : InferenceChanges 0 s (evaccEffect l j s) := by
  obtain ⟨m, o, hm⟩ := (evacc_adds h l j).frame
  exact ⟨_, _, _, _, _, _, _, _, hm⟩

theorem accum_changes (l t : ℕ) : InferenceChanges 0 s (accumEffect l t s) := by
  obtain ⟨m, o, hm⟩ := accum_frame h l t
  exact ⟨_, _, _, _, _, _, _, _, hm⟩

theorem lifstep_changes (l t : ℕ) : InferenceChanges 0 s (lifstepEffect l t s) :=
  (lifstep_keeps h l (Nat.lt_succ_self t)).changes

theorem layer_changes (l : ℕ) : InferenceChanges 0 s (layerEffect l s) :=
  (layerSteps_keeps h l (le_refl s.params.tau)).changes

theorem loadch_changes (c k : ℕ) : InferenceChanges 0 s (loadchEffect c k s) := by
  obtain ⟨⟨b0, b1, hm⟩, -⟩ := loadch_spec h c k
  exact ⟨_, _, _, _, _, _, _, _, hm⟩

/-- One layer of a chunk and its swap. -/
theorem layerSwap_changes (l : ℕ) : InferenceChanges 1 s (swapEffect (layerEffect l s)) :=
  (layer_changes h l).trans (swap_changes _)

theorem chunk_changes (k c : ℕ) : InferenceChanges s.nLayers s (chunkEffect k s c) := by
  have hload := loadch_changes h c k
  have hlayers := InferenceChanges.foldl (s := loadchEffect c k s)
    (fun u l hu => layerSwap_changes (hu.stale.trans (hload.sameSetup.stale.trans h)) l) (List.range s.nLayers)
  rw [List.length_range, Nat.mul_one] at hlayers
  unfold chunkEffect
  simpa only [zero_add, add_zero] using hload.trans (hlayers.trans (count_changes c _))

theorem run_changes (k : ℕ) : InferenceChanges (s.params.nChunks * s.nLayers) s (runEffect k s) := by
  have hclear := (zero_changes s).trans (clrcnt_changes (zeroEffect s))
  have hchunks := InferenceChanges.foldl (s := clrcntEffect (zeroEffect s)) (f := chunkEffect k) (n := s.nLayers)
    (fun u c hu => by
      have hsame := hclear.sameSetup.trans hu
      rw [← hsame.nLayers]
      exact chunk_changes (hsame.stale.trans h) k c) (List.range s.params.nChunks)
  rw [List.length_range] at hchunks
  unfold runEffect
  simpa only [zero_add, add_zero] using hclear.trans (hchunks.trans (classify_changes _))

end Stable
end Commands

/-! ### No effect but SRST's reads CMD -/

section Cmd

variable (c : Word → Word)

theorem loadBit_relabel (k a t n : ℕ) (s : State) :
    loadBit k a t n (relabel c id s) = relabel c id (loadBit k a t n s) := by
  unfold loadBit
  have haddr : (relabel c id s).srcAddr k a n = s.srcAddr k a n := rfl
  rw [haddr, memRead_relabel, ← sbSet_relabel]
  rfl

theorem loadch_relabel (d k : ℕ) (s : State) :
    loadchEffect d k (relabel c id s) = relabel c id (loadchEffect d k s) :=
  foldl_relabel c id
    (f := fun u t => (List.range (s.neurons 0)).foldl (fun u n => loadBit k (d * s.params.tau + t) t n u) u)
    (fun u t => foldl_relabel c id (f := fun u n => loadBit k (d * s.params.tau + t) t n u)
      (fun u n => loadBit_relabel c k _ t n u) _ u) (List.range s.params.tau) s

theorem layer_relabel (l : ℕ) (s : State) : layerEffect l (relabel c id s) = relabel c id (layerEffect l s) :=
  foldl_relabel c id (f := fun u t => lifstepEffect l t u) (fun u t => lifstep_relabel c l t u)
    (List.range s.params.tau) s

theorem countBit_relabel (d t : ℕ) (s : State) (i : ℕ) :
    countBit d t (relabel c id s) i = relabel c id (countBit d t s i) := by
  unfold countBit
  change (if s.sbGet (s.roleBuf .A) i t = true then _ else _) = _
  rw [apply_ite (relabel c id)]
  rfl

theorem count_relabel (d : ℕ) (s : State) : countEffect d (relabel c id s) = relabel c id (countEffect d s) :=
  foldl_relabel c id (fun u t => foldl_relabel c id (countBit_relabel c d t) _ u) _ s

theorem chunk_relabel (k : ℕ) (s : State) (d : ℕ) :
    chunkEffect k (relabel c id s) d = relabel c id (chunkEffect k s d) := by
  unfold chunkEffect
  rw [loadch_relabel, ← count_relabel]
  congr 1
  refine foldl_relabel c id (fun u l => ?_) _ _
  rw [layer_relabel]
  rfl

theorem run_relabel (k : ℕ) (s : State) : runEffect k (relabel c id s) = relabel c id (runEffect k s) :=
  congrArg classifyEffect (foldl_relabel c id (chunk_relabel c k) _ (clrcntEffect (zeroEffect s)))

theorem initLayer_relabel (l : ℕ) (s : State) : initLayer l (relabel c id s) = relabel c id (initLayer l s) :=
  foldl_relabel c id (fun _ _ => rfl) _ s

theorem init_relabel (s : State) : initEffect (relabel c id s) = relabel c id (initEffect s) := by
  have hloop := foldl_relabel c id (f := fun u l => initLayer l u) (fun u l => initLayer_relabel c l u)
    (List.range s.nLayers) s
  unfold initEffect
  change { (List.range s.nLayers).foldl (fun u l => initLayer l u) (relabel c id s) with
    regs.status.configured := true } = _
  rw [hloop]
  rfl

/-- SRST resets CMD with the other registers; every other command's effects leave it and do not read it. -/
theorem effectOf_relabel {i : Instr} (hi : i ≠ .srst) (s : State) :
    effectOf i (relabel c id s) = relabel c id (effectOf i s) := by
  cases i with
  | srst => exact absurd rfl hi
  | nop => rfl
  | zero => rfl
  | clrcnt => rfl
  | quant => rfl
  | dequant => rfl
  | sbget => rfl
  | swap => rfl
  | vclr => rfl
  | classify => rfl
  | init => exact init_relabel c s
  | sbset r n t v => exact sbSet_relabel c id s _ n t v
  | loadch d k => exact loadch_relabel c d k s
  | vscale l => exact vscale_relabel c id l s
  | vadd l => exact vadd_relabel c id l s
  | vcmp l => exact vcmp_relabel c id l s
  | vsubt l => exact vsubt_relabel c id l s
  | vpack l t => exact vpack_relabel c id l t s
  | vbias l => exact vbias_relabel c id l s
  | evacc l j => exact evacc_relabel c id l j s
  | accum l t => exact accum_relabel c id l t s
  | lifstep l t => exact lifstep_relabel c l t s
  | layer l => exact layer_relabel c l s
  | count d => exact count_relabel c d s
  | run k => exact run_relabel c k s

end Cmd

/-- No effect but INIT's and SRST's writes CONFIGURED. -/
theorem effectOf_configured {i : Instr} (hi : i ≠ .init) (hi' : i ≠ .srst) {s : State} (h : s.stale = []) :
    (effectOf i s).regs.status.configured = s.regs.status.configured := by
  cases i with
  | srst => exact absurd rfl hi'
  | init => exact absurd rfl hi
  | nop => rfl
  | quant => rfl
  | dequant => rfl
  | sbget => rfl
  | sbset r n t v =>
    obtain ⟨b0, b1, hb⟩ := sbSet_frame s (s.roleBuf r) n t v
    rw [effectOf, sbsetEffect, hb]
  | zero => rw [effectOf, (zero_changes s).configured]
  | clrcnt => rw [effectOf, (clrcnt_changes s).configured]
  | swap => rw [effectOf, (swap_changes s).configured]
  | vclr => rw [effectOf, (vclr_changes s).configured]
  | classify => rw [effectOf, (classify_changes s).configured]
  | loadch d k => rw [effectOf, (loadch_changes h d k).configured]
  | vscale l => exact (mapLanes_changes l (s.neurons l) (vscaleLane s l) s).configured
  | vadd l => exact (mapLanes_changes l (s.neurons l) (vaddLane s l) s).configured
  | vcmp l => rw [effectOf, (vcmp_changes l s).configured]
  | vsubt l => exact (mapLanes_changes l (s.neurons l) (vsubtLane s l) s).configured
  | vpack l t => rw [effectOf, (vpack_changes l t s).configured]
  | vbias l => rw [effectOf, (vbias_changes h l).configured]
  | evacc l j => rw [effectOf, (evacc_changes h l j).configured]
  | accum l t => rw [effectOf, (accum_changes h l t).configured]
  | lifstep l t => rw [effectOf, (lifstep_changes h l t).configured]
  | layer l => rw [effectOf, (layer_changes h l).configured]
  | count d => rw [effectOf, (count_changes d s).configured]
  | run k => rw [effectOf, (run_changes h k).configured]

/-! ### Commands issued one after the other (R167) -/

/-- The effects of a list of commands, one after the other. -/
def effectsOf (cmds : List Instr) (s : State) : State := cmds.foldl (fun u i => effectOf i u) s

theorem effectsOf_nil (s : State) : effectsOf [] s = s := rfl

theorem effectsOf_cons (i : Instr) (cmds : List Instr) (s : State) :
    effectsOf (i :: cmds) s = effectsOf cmds (effectOf i s) := rfl

theorem effectsOf_append (xs ys : List Instr) (s : State) :
    effectsOf (xs ++ ys) s = effectsOf ys (effectsOf xs s) := List.foldl_append

/-- Every command of the list passes the acceptance of `s`, and none is SRST. -/
def AcceptsAll (s : State) (cmds : List Instr) : Prop := ∀ i ∈ cmds, i ≠ .srst ∧ acceptError i s = none

/-- A completed command of a configured unit leaves a unit that accepts the same commands, and its effects where the
next command finds them. -/
theorem next_of_accepted {s : State} (hs : Ready s) {i : Instr} (hi : i ≠ .srst) (hok : acceptError i s = none) :
    ∃ t, exec i s = .next t ∧ Ready t ∧ t.stale = [] ∧ (∀ j, acceptError j t = acceptError j s) ∧
      ∀ w, latch w t = effectOf i (latch w s) := by
  have hinit : i ≠ .init := fun h => by simpa [hs.2] using ((acceptError_eq_none i s).1 hok).2.1 h
  have hconf := effectOf_configured hinit hi (latch_stale (encode i) s)
  have hcmd : ∀ w, effectOf i (latch w s) = relabel (fun _ => w) id (effectOf i (latch (encode i) s)) := fun w => by
    rw [← effectOf_relabel _ hi]
    rfl
  have htouch := touches_effectOf hi (latch (encode i) s)
  refine ⟨_, exec_accepted hs.1 hok, ?_⟩
  generalize effectOf i (latch (encode i) s) = e at hconf hcmd htouch
  obtain ⟨a, d, co, br, res, sel, o, c, rfl⟩ := htouch
  have hc : c = s.regs.status.configured := hconf
  subst hc
  exact ⟨⟨⟨rfl, hs.1.2⟩, hs.2⟩, rfl, fun j => acceptError_congr j rfl rfl rfl rfl rfl rfl rfl, fun w => (hcmd w).symm⟩

/-- Acceptance does not change along the list, so every command runs on what the effects before it left. -/
theorem execAll_accepted {s : State} (hs : Ready s) {cmds : List Instr} (hok : AcceptsAll s cmds) :
    ∃ v, execAll cmds s = .next v ∧ Idle v ∧ (cmds ≠ [] ∨ s.stale = [] → v.stale = []) ∧
      ∀ w, latch w v = effectsOf cmds (latch w s) := by
  induction cmds generalizing s with
  | nil => exact ⟨s, rfl, hs.1, by simp, fun _ => rfl⟩
  | cons i cmds ih =>
    obtain ⟨hfirst, hrest⟩ := List.forall_mem_cons.1 hok
    obtain ⟨t, hexec, ht, hstale, haccept, hlatch⟩ := next_of_accepted hs hfirst.1 hfirst.2
    obtain ⟨v, hexecs, hv, hvstale, hlatchs⟩ := ih ht fun j hj => by
      rw [haccept]
      exact hrest j hj
    refine ⟨v, (execAll_cons_of_next hexec cmds).trans hexecs, hv, fun _ => hvstale (.inr hstale), fun w => ?_⟩
    rw [hlatchs, hlatch]
    rfl

/-- A command whose effects are those of a list of accepted commands leaves what the list leaves when issued, except
CMD (R167). -/
theorem exec_eq_execAll {s : State} (hs : Ready s) {i : Instr} (hi : acceptError i s = none) {cmds : List Instr}
    (hne : cmds ≠ []) (hok : AcceptsAll s cmds)
    (heff : effectOf i (latch (encode i) s) = effectsOf cmds (latch (encode i) s)) :
    ∃ u v, exec i s = .next u ∧ execAll cmds s = .next v ∧ u = { v with regs.cmd := encode i } := by
  obtain ⟨v, hexec, hv, hstale, hlatch⟩ := execAll_accepted hs hok
  refine ⟨_, v, exec_accepted hs.1 hi, hexec, ?_⟩
  rw [heff, ← hlatch, finish_latch hv, issued, ← hstale (.inl hne)]

/-! ### ACCUM and LIFSTEP (R141, R145) -/

/-- The events of a row are those whose bit is set before the first of them, since no event writes a buffer. -/
theorem foldl_eventStep_eq {s : State} (h : s.stale = []) (l t : ℕ) (xs : List ℕ) :
    xs.foldl (eventStep l t) s =
      (xs.filter (fun j => s.sbGet s.regs.status.sel j t)).foldl (fun u j => evaccEffect l j u) s := by
  induction xs generalizing s with
  | nil => rfl
  | cons j xs ih =>
    have hstep : eventStep l t s j = if s.sbGet s.regs.status.sel j t = true then evaccEffect l j s else s := rfl
    rw [List.foldl_cons, hstep]
    by_cases hbit : s.sbGet s.regs.status.sel j t = true
    · obtain ⟨m, q, hevent⟩ := (evacc_adds h l j).frame
      rw [if_pos hbit, List.filter_cons, if_pos hbit, List.foldl_cons, hevent]
      exact ih (s := { s with arr.sum := m, regs.status.ovf := q }) h
    · rw [if_neg hbit, List.filter_cons, if_neg hbit]
      exact ih h

theorem accumEffect_eq {s : State} (h : s.stale = []) (l t : ℕ) :
    accumEffect l t s = effectsOf (.vbias l :: ((List.range (s.nIn l)).filter
      (fun j => s.sbGet s.regs.status.sel j t)).map (Instr.evacc l)) s := by
  obtain ⟨m, hbias⟩ := (vbias_sets h l).frame
  rw [accumEffect, effectsOf, List.foldl_cons, List.foldl_map, effectOf, hbias]
  exact foldl_eventStep_eq (s := { s with arr.sum := m }) h l t _

theorem lifstepEffect_eq_effectsOf {s : State} (h : s.stale = []) (l t : ℕ) :
    lifstepEffect l t s = effectsOf ([.accum l t] ++ (if s.regs.ifMode = true then [] else [.vscale l]) ++
      [.vadd l, .vcmp l, .vsubt l, .vpack l t]) s := by
  obtain ⟨m, q, haccum⟩ := accum_frame h l t
  have hdecay : decayEffect l (accumEffect l t s) =
      effectsOf (if s.regs.ifMode = true then [] else [.vscale l]) (accumEffect l t s) := by
    have hmode : (accumEffect l t s).regs.ifMode = s.regs.ifMode := by rw [haccum]
    rw [decayEffect, hmode, apply_ite (effectsOf · (accumEffect l t s))]
    rfl
  rw [lifstepEffect, hdecay]
  simp only [effectsOf_append, effectsOf_cons, effectsOf_nil, effectOf]

/-- Settles O45: no event of a row touches the bits that decide the later ones, and ACCUM leaves IF_MODE. -/
theorem lifstepSequence : Obligations.LifstepSequence := by
  intro s l t hs hl ht
  have haccum := acceptError_accum hs hl ht
  refine ⟨exec_eq_execAll hs haccum (List.cons_ne_nil _ _) ?_ (accumEffect_eq (latch_stale _ s) l t),
    exec_eq_execAll hs (acceptError_lifstep hs hl ht) (by simp) ?_ (lifstepEffect_eq_effectsOf (latch_stale _ s) l t)⟩
  · refine List.forall_mem_cons.2 ⟨⟨nofun, acceptError_vbias hs hl⟩, List.forall_mem_map.2 fun j hj => ⟨nofun, ?_⟩⟩
    exact acceptError_evacc hs hl (List.mem_range.1 (List.mem_filter.1 hj).1)
  · have hlast : AcceptsAll s [.vadd l, .vcmp l, .vsubt l, .vpack l t] := by
      simp [AcceptsAll, acceptError_vadd hs hl, acceptError_vcmp hs hl, acceptError_vsubt hs hl,
        acceptError_vpack hs hl ht]
    have hdecay : AcceptsAll s (if s.regs.ifMode = true then [] else [.vscale l]) := by
      split <;> simp [AcceptsAll, acceptError_vscale hs hl]
    intro i hi
    rw [List.mem_append, List.mem_append, List.mem_singleton] at hi
    obtain (rfl | hi) | hi := hi
    · exact ⟨nofun, haccum⟩
    · exact hdecay i hi
    · exact hlast i hi

/-! ### RUN (R163, R164) -/

/-- The commands of one chunk of an inference with `n` layers. -/
def chunkCommands (n k c : ℕ) : List Instr :=
  [.loadch c k] ++ (List.range n).flatMap (fun l => [.layer l, .swap]) ++ [.count c]

theorem effectsOf_chunkCommands (k c : ℕ) (s : State) :
    effectsOf (chunkCommands s.nLayers k c) s = chunkEffect k s c := by
  rw [chunkCommands, effectsOf_append, effectsOf_append, effectsOf, effectsOf, effectsOf, List.foldl_flatMap]
  rfl

/-- Every chunk of a run finds the topology the run started with. -/
theorem runEffect_eq {s : State} (h : s.stale = []) (k : ℕ) :
    runEffect k s = effectsOf ([.zero, .clrcnt] ++
      (List.range s.params.nChunks).flatMap (chunkCommands s.nLayers k) ++ [.classify]) s := by
  have hclear := (zero_changes s).trans (clrcnt_changes (zeroEffect s))
  have hchunks : (List.range s.params.nChunks).foldl (chunkEffect k) (clrcntEffect (zeroEffect s)) =
      effectsOf ((List.range s.params.nChunks).flatMap (chunkCommands s.nLayers k)) (clrcntEffect (zeroEffect s)) := by
    rw [effectsOf, List.foldl_flatMap]
    refine (List.foldl_rel (r := fun u v => u = v ∧ SameSetup s u) ⟨rfl, hclear.sameSetup⟩ ?_).1
    rintro c - u _ ⟨rfl, hu⟩
    refine ⟨?_, hu.trans (chunk_changes (hu.stale.trans h) k c).sameSetup⟩
    rw [← hu.nLayers]
    exact (effectsOf_chunkCommands k c u).symm
  rw [effectsOf_append, effectsOf_append]
  exact congrArg classifyEffect hchunks

theorem acceptError_run {s : State} (hs : Ready s) {k : ℕ} (hlast : runLastAddr k s < 2 ^ 32) :
    acceptError (.run k) s = none :=
  acceptError_of_checks hs.1 nofun nofun (fun _ => hs.2) rfl (decide_eq_true hlast)

/-- A RUN whose source is in range loads chunks whose source is in range (R116, R164). -/
theorem loadchLastAddr_lt {s : State} (hp : s.params.Valid) {k c : ℕ} (hc : c < s.params.nChunks)
    (hlast : runLastAddr k s < 2 ^ 32) : loadchLastAddr c k s < 2 ^ 32 := by
  obtain ⟨⟨htau, -⟩, -⟩ := hp
  have hbase := s.regs.srcBase.isLt
  have hchunk : c * s.params.tau + s.params.tau ≤ s.params.timeWindow :=
    calc c * s.params.tau + s.params.tau = (c + 1) * s.params.tau := (Nat.succ_mul _ _).symm
      _ ≤ s.params.nChunks * s.params.tau := Nat.mul_le_mul_right _ hc
      _ ≤ s.params.timeWindow := Nat.div_mul_le_self _ _
  have hrow : (k * s.params.timeWindow + (c * s.params.tau + s.params.tau - 1)) * s.srcRow ≤
      (k * s.params.timeWindow + s.params.timeWindow - 1) * s.srcRow := Nat.mul_le_mul_right _ (by omega)
  have hbyte : (s.neurons 0 - 1) / 8 ≤ s.srcRow - 1 := by
    unfold State.srcRow
    omega
  unfold loadchLastAddr State.srcAddr
  unfold runLastAddr at hlast
  obtain hzero | hpos := Nat.eq_zero_or_pos s.srcRow
  · rw [hzero] at hbyte ⊢
    omega
  · omega

theorem acceptsAll_runCommands {s : State} (hs : Ready s) (hp : s.params.Valid) {k : ℕ}
    (hlast : runLastAddr k s < 2 ^ 32) : AcceptsAll s ([.zero, .clrcnt] ++
      (List.range s.params.nChunks).flatMap (chunkCommands s.nLayers k) ++ [.classify]) := by
  have hzero : acceptError .zero s = none := acceptError_of_checks hs.1 nofun nofun nofun rfl rfl
  have hclrcnt : acceptError .clrcnt s = none := acceptError_of_checks hs.1 nofun nofun nofun rfl rfl
  intro i hi
  simp only [chunkCommands, List.mem_append, List.mem_cons, List.mem_flatMap, List.mem_range, List.not_mem_nil,
    or_false] at hi
  obtain ((rfl | rfl) | ⟨c, hc, (rfl | ⟨l, hl, (rfl | rfl)⟩) | rfl⟩) | rfl := hi
  · exact ⟨nofun, hzero⟩
  · exact ⟨nofun, hclrcnt⟩
  · exact ⟨nofun, acceptError_loadch hs hc (loadchLastAddr_lt hp hc hlast)⟩
  · exact ⟨nofun, acceptError_layer hs hl⟩
  · exact ⟨nofun, acceptError_swap hs.1⟩
  · exact ⟨nofun, acceptError_count hs hc⟩
  · exact ⟨nofun, acceptError_classify hs⟩

/-- Settles O52: the chunks' commands are accepted from the start, and their effects are those of RUN. -/
theorem runSequence : Obligations.RunSequence := by
  intro s k hs hp hlast
  exact exec_eq_execAll hs (acceptError_run hs hlast) (by simp) (acceptsAll_runCommands hs hp hlast)
    (runEffect_eq (latch_stale _ s) k)

/-- Settles O53: the relation that counts the swaps, for the whole run. -/
theorem runFrame : Obligations.RunFrame := by
  intro s k hs hlast
  obtain ⟨v, f, m, n, b0, b1, r, q, hrun⟩ := run_changes (latch_stale (encode (.run k)) s) k
  refine ⟨_, exec_accepted hs.1 (acceptError_run hs hlast), ?_⟩
  rw [effectOf, hrun, iterate_otherBuf, ← finish_latch hs.1]
  rfl

end Sys2Proof.Machine
end

section
/-! Two inferences of one sample side by side (spec/45_pipeline.md R166): two states that share the setup, the
potentials, the counts and the input bits of the next command keep sharing them through LOADCH, each LAYER and its SWAP,
and COUNT. -/

namespace Sys2Proof.Machine

/-! ### What the setup determines -/

section Setup

variable {s t : State} (h : SameSetup s t)
include h

theorem SameSetup.kind (l : ℕ) : t.kind l = s.kind l := by
  obtain ⟨r, a, d, x, ins, rfl⟩ := h
  rfl

theorem SameSetup.neurons (l : ℕ) : t.neurons l = s.neurons l := by
  obtain ⟨r, a, d, x, ins, rfl⟩ := h
  rfl

theorem SameSetup.nIn (l : ℕ) : t.nIn l = s.nIn l := by
  obtain ⟨r, a, d, x, ins, rfl⟩ := h
  rfl

theorem SameSetup.lastLayer : t.lastLayer = s.lastLayer := by
  obtain ⟨r, a, d, x, ins, rfl⟩ := h
  rfl

theorem SameSetup.runLastAddr (k : ℕ) : runLastAddr k t = runLastAddr k s := by
  obtain ⟨r, a, d, x, ins, rfl⟩ := h
  rfl

/-- The source byte of a bit that LOADCH reads. -/
theorem SameSetup.sourceByte (k a n : ℕ) : t.tmemAt (t.srcAddr k a n) = s.tmemAt (s.srcAddr k a n) := by
  obtain ⟨r, a, d, x, ins, rfl⟩ := h
  rfl

theorem SameSetup.vbiasWord {l : ℕ} (hk : s.kind l ≠ .reserved) : t.vbiasWord l = s.vbiasWord l := by
  have hkind := h.kind l
  obtain ⟨r, a, d, x, ins, rfl⟩ := h
  unfold State.vbiasWord
  rw [hkind]
  cases hs : s.kind l with
  | input => rfl
  | fullyConnected => rfl
  | conv => rfl
  | reserved => exact absurd hs hk

theorem SameSetup.eventWeight (l j : ℕ) : t.eventWeight l j = s.eventWeight l j := by
  obtain ⟨r, a, d, x, ins, rfl⟩ := h
  rfl

/-- The update of a neuron depends on the setup, its potential and its sum (R145). -/
theorem SameSetup.lif {l i : ℕ} (hv : t.vAt l i = s.vAt l i) (hsum : t.sumAt i = s.sumAt i) :
    t.lifRestAt l i = s.lifRestAt l i ∧ t.lifFiresAt l i = s.lifFiresAt l i := by
  have hmode : t.regs.ifMode = s.regs.ifMode := by
    obtain ⟨r, a, d, x, ins, rfl⟩ := h
    rfl
  have hdk : t.dkAt l i = s.dkAt l i := by
    obtain ⟨r, a, d, x, ins, rfl⟩ := h
    rfl
  have hth : t.thAt l i = s.thAt l i := by
    obtain ⟨r, a, d, x, ins, rfl⟩ := h
    rfl
  simp only [State.lifRestAt, State.lifFiresAt, hmode, hdk, hth, hv, hsum, and_self]

end Setup

theorem nIn_eq_neurons (s : State) (l : ℕ) : s.nIn l = s.neurons (l - 1) := by
  unfold State.nIn
  split
  · next h => rw [h]
  · rfl

/-! ### Two states that infer alike -/

/-- `s` and `t` share the setup, the potentials, the counts, and the bits of neurons `0 .. n - 1` in buffer A, whichever
physical buffer that is. -/
structure InfersAlike (n : ℕ) (s t : State) : Prop where
  setup : SameSetup s t
  stale : s.stale = []
  vAt : ∀ l i, t.vAt l i = s.vAt l i
  countAt : ∀ i c, t.countAt i c = s.countAt i c
  inputs : ∀ i < n, ∀ r < s.params.tau, t.sbGet t.regs.status.sel i r = s.sbGet s.regs.status.sel i r

/-- `s` and `t` share the bits of layer `l` in rows `0 .. m - 1` of buffer B. -/
def SameOutputs (l m : ℕ) (s t : State) : Prop :=
  ∀ i < s.neurons l, ∀ r < m,
    t.sbGet (otherBuf t.regs.status.sel) i r = s.sbGet (otherBuf s.regs.status.sel) i r

section Alike

variable {n : ℕ} {s t : State}

theorem InfersAlike.stale_right (h : InfersAlike n s t) : t.stale = [] := h.setup.stale.trans h.stale

/-- What an inference changes keeps two states on the same setup. -/
theorem InfersAlike.setup_of_changes (h : InfersAlike n s t) {s' t' : State} {m m' : ℕ} (hs : InferenceChanges m s s')
    (ht : InferenceChanges m' t t') : SameSetup s' t' :=
  hs.sameSetup.symm.trans (h.setup.trans ht.sameSetup)

/-! ### LOADCH (R116) -/

theorem loadch_alike (h : InfersAlike n s t) (c k : ℕ) :
    InfersAlike (s.neurons 0) (loadchEffect c k s) (loadchEffect c k t) := by
  have hs := loadch_changes h.stale c k
  have ht := loadch_changes h.stale_right c k
  obtain ⟨⟨b0, b1, hsframe⟩, hsbits⟩ := loadch_spec h.stale c k
  obtain ⟨⟨d0, d1, htframe⟩, htbits⟩ := loadch_spec h.stale_right c k
  have hssel : (loadchEffect c k s).regs.status.sel = s.regs.status.sel := by rw [hsframe]
  have htsel : (loadchEffect c k t).regs.status.sel = t.regs.status.sel := by rw [htframe]
  refine ⟨h.setup_of_changes hs ht, hs.sameSetup.stale.trans h.stale, fun l i => ?_, fun i d => ?_, fun i hi r hr => ?_⟩
  · rw [hsframe, htframe]
    exact h.vAt l i
  · rw [hsframe, htframe]
    exact h.countAt i d
  · rw [hs.sameSetup.params] at hr
    rw [hssel, htsel, hsbits, htbits, h.setup.neurons, h.setup.params, h.setup.sourceByte, if_pos ⟨rfl, hi, hr⟩,
      if_pos ⟨rfl, hi, hr⟩]

/-! ### LAYER and SWAP (R141, R145, R148, R115) -/

theorem sums_changes (s : State) (m : Table 32) (o : Bool) :
    InferenceChanges 0 s { s with arr.sum := m, regs.status.ovf := o } := ⟨_, _, _, _, _, _, _, _, rfl⟩

/-- The sums of neurons `0 .. m - 1` stay shared through events whose bits are shared. -/
theorem foldl_eventStep_alike (hsetup : SameSetup s t) (hs : s.stale = []) (l r m : ℕ) {xs : List ℕ}
    (hin : ∀ j ∈ xs, t.sbGet t.regs.status.sel j r = s.sbGet s.regs.status.sel j r)
    (hsum : ∀ i < m, t.sumAt i = s.sumAt i) :
    ∀ i < m, (xs.foldl (eventStep l r) t).sumAt i = (xs.foldl (eventStep l r) s).sumAt i := by
  induction xs generalizing s t with
  | nil => exact hsum
  | cons j xs ih =>
    obtain ⟨hbit, hbits⟩ := List.forall_mem_cons.1 hin
    have hterm : ∀ i, t.accumTerm l r i j = s.accumTerm l r i j := fun i => by
      rw [State.accumTerm, State.accumTerm, hbit, hsetup.eventWeight]
    obtain ⟨⟨a, o, hsframe⟩, hssum, -⟩ := eventStep_adds hs l r j
    obtain ⟨⟨b, p, htframe⟩, htsum, -⟩ := eventStep_adds (hsetup.stale.trans hs) l r j
    have hnext : ∀ i < m, (eventStep l r t j).sumAt i = (eventStep l r s j).sumAt i := fun i hi => by
      rw [hssum, htsum, hsum i hi, hterm]
    rw [List.foldl_cons, List.foldl_cons]
    rw [hsframe, htframe] at hnext ⊢
    exact ih ((sums_changes s a o).sameSetup.symm.trans (hsetup.trans (sums_changes t b p).sameSetup)) hs hbits hnext

/-- ACCUM leaves both states the same sums for the neurons of its layer (R141). -/
theorem accum_alike (h : InfersAlike n s t) {l r : ℕ} (hk : s.kind l ≠ .reserved) (hn : s.nIn l ≤ n)
    (hr : r < s.params.tau) :
    ∀ i < s.neurons l, (accumEffect l r t).sumAt i = (accumEffect l r s).sumAt i := by
  obtain ⟨⟨a, hsframe⟩, hssum⟩ := vbias_sets h.stale l
  obtain ⟨⟨b, htframe⟩, htsum⟩ := vbias_sets h.stale_right l
  have hbias : ∀ i < s.neurons l, (vbiasEffect l t).sumAt i = (vbiasEffect l s).sumAt i := fun i hi => by
    rw [hssum, htsum, h.setup.neurons, h.setup.vbiasWord hk, if_pos hi, if_pos hi]
  have hs' := vbias_changes h.stale l
  have ht' := vbias_changes h.stale_right l
  rw [accumEffect, accumEffect, h.setup.nIn]
  refine foldl_eventStep_alike (h.setup_of_changes hs' ht') (hs'.sameSetup.stale.trans h.stale) l r _ (fun j hj => ?_)
    hbias
  rw [hsframe, htframe]
  exact h.inputs j ((List.mem_range.1 hj).trans_le hn) r hr

/-- The update of a layer's neurons from the same sums: the same potentials, and one more row of the same outputs. -/
theorem lifUpdate_alike {l r : ℕ} (hsetup : SameSetup s t) (hv : ∀ l i, t.vAt l i = s.vAt l i)
    (hsum : ∀ i < s.neurons l, t.sumAt i = s.sumAt i) (hout : SameOutputs l r s t) :
    (∀ l' i, (lifUpdate l r t).vAt l' i = (lifUpdate l r s).vAt l' i) ∧
      SameOutputs l (r + 1) (lifUpdate l r s) (lifUpdate l r t) := by
  have hs := lifUpdate_updates l r s
  have ht := lifUpdate_updates l r t
  refine ⟨fun l' i => ?_, fun i hi r' hr' => ?_⟩
  · rw [hs.vAt, ht.vAt, hsetup.neurons, hv]
    by_cases hi : l' = l ∧ i < s.neurons l
    · rw [if_pos hi, if_pos hi, (hsetup.lif (hv l i) (hsum i hi.2)).1]
    · rw [if_neg hi, if_neg hi]
  · rw [hs.frame.neurons] at hi
    rw [hs.frame.sel, ht.frame.sel, hs.sbGet, ht.sbGet, hsetup.neurons]
    obtain rfl | hlt := Nat.eq_or_lt_of_le (Nat.lt_succ_iff.1 hr')
    · rw [if_pos ⟨rfl, hi, rfl⟩, if_pos ⟨rfl, hi, rfl⟩, (hsetup.lif (hv l i) (hsum i hi)).2]
    · rw [if_neg fun h => hlt.ne h.2.2, if_neg fun h => hlt.ne h.2.2, hout i hi r' hlt]

/-- What a layer keeps includes the counts and buffer A. -/
theorem KeepsOutside.counts_inputs {l T : ℕ} (h : KeepsOutside l T s t) :
    (∀ i c, t.countAt i c = s.countAt i c) ∧
      ∀ i r, t.sbGet t.regs.status.sel i r = s.sbGet s.regs.status.sel i r := by
  have hbits := h.bits s.regs.status.sel
  obtain ⟨v, f, m, b0, b1, q, rfl⟩ := h.frame
  exact ⟨fun _ _ => rfl, fun i r => hbits i r (.inl rfl)⟩

/-- One timestep of a layer. -/
theorem lifstep_alike (h : InfersAlike n s t) {l r : ℕ} (hk : s.kind l ≠ .reserved) (hn : s.nIn l ≤ n)
    (hr : r < s.params.tau) (hout : SameOutputs l r s t) :
    InfersAlike n (lifstepEffect l r s) (lifstepEffect l r t) ∧
      SameOutputs l (r + 1) (lifstepEffect l r s) (lifstepEffect l r t) := by
  have hs := lifstep_changes h.stale l r
  have ht := lifstep_changes h.stale_right l r
  obtain ⟨hscounts, hsbits⟩ := (lifstep_keeps h.stale l (Nat.lt_succ_self r)).counts_inputs
  obtain ⟨htcounts, htbits⟩ := (lifstep_keeps h.stale_right l (Nat.lt_succ_self r)).counts_inputs
  obtain ⟨hv, hrows⟩ :
      (∀ l' i, (lifstepEffect l r t).vAt l' i = (lifstepEffect l r s).vAt l' i) ∧
        SameOutputs l (r + 1) (lifstepEffect l r s) (lifstepEffect l r t) := by
    have hsum := accum_alike h hk hn hr
    have hsetup := h.setup_of_changes (accum_changes h.stale l r) (accum_changes h.stale_right l r)
    obtain ⟨a, o, hsframe⟩ := accum_frame h.stale l r
    obtain ⟨b, p, htframe⟩ := accum_frame h.stale_right l r
    rw [lifstepEffect_eq, lifstepEffect_eq]
    rw [hsframe, htframe] at hsum hsetup ⊢
    exact lifUpdate_alike hsetup h.vAt hsum hout
  refine ⟨⟨h.setup_of_changes hs ht, hs.sameSetup.stale.trans h.stale, hv, fun i c => ?_, fun i hi q hq => ?_⟩, hrows⟩
  · rw [hscounts, htcounts, h.countAt]
  · rw [hs.sameSetup.params] at hq
    rw [hsbits, htbits, h.inputs i hi q hq]

theorem layerSteps_alike (h : InfersAlike n s t) {l m : ℕ} (hk : s.kind l ≠ .reserved) (hn : s.nIn l ≤ n)
    (hm : m ≤ s.params.tau) :
    InfersAlike n (layerSteps l m s) (layerSteps l m t) ∧ SameOutputs l m (layerSteps l m s) (layerSteps l m t) := by
  induction m with
  | zero => exact ⟨h, fun _ _ _ hr => absurd hr (Nat.not_lt_zero _)⟩
  | succ m ih =>
    have hm' : m ≤ s.params.tau := by omega
    obtain ⟨halike, hout⟩ := ih hm'
    have hsame : SameSetup s (layerSteps l m s) := (layerSteps_keeps h.stale l hm').changes.sameSetup
    rw [layerSteps_succ, layerSteps_succ]
    exact lifstep_alike halike (by rwa [hsame.kind]) (by rwa [hsame.nIn]) (by rw [hsame.params]; omega) hout

/-- After the swap the outputs of a layer are the inputs of the next one (R163). -/
theorem layerSwap_alike (h : InfersAlike n s t) {l : ℕ} (hk : s.kind l ≠ .reserved) (hn : s.nIn l ≤ n) :
    InfersAlike (s.neurons l) (swapEffect (layerEffect l s)) (swapEffect (layerEffect l t)) := by
  obtain ⟨halike, hout⟩ := layerSteps_alike h hk hn le_rfl
  rw [layerEffect_eq, layerEffect_eq, h.setup.params]
  have hsame : SameSetup s (layerSteps l s.params.tau s) := (layer_changes h.stale l).sameSetup
  refine ⟨halike.setup_of_changes (swap_changes _) (swap_changes _), halike.stale, halike.vAt, halike.countAt, ?_⟩
  intro i hi r hr
  exact hout i (by rwa [hsame.neurons]) r (by rwa [← hsame.params])

/-- Every layer of the topology in turn. -/
theorem layers_alike (h : InfersAlike (s.neurons 0) s t) (hk : ∀ l < s.nLayers, s.kind l ≠ .reserved) {m : ℕ}
    (hm : m ≤ s.nLayers) :
    InfersAlike (s.neurons (m - 1)) ((List.range m).foldl (fun u l => swapEffect (layerEffect l u)) s)
      ((List.range m).foldl (fun u l => swapEffect (layerEffect l u)) t) := by
  induction m with
  | zero => exact h
  | succ m ih =>
    have halike := ih (by omega)
    have hsame := (InferenceChanges.foldl (s := s) (fun u l hu => layerSwap_changes (hu.stale.trans h.stale) l)
      (List.range m)).sameSetup
    rw [List.range_succ, List.foldl_append, List.foldl_append, List.foldl_cons, List.foldl_nil, List.foldl_cons,
      List.foldl_nil, Nat.add_sub_cancel, ← hsame.neurons]
    exact layerSwap_alike halike (by rw [hsame.kind]; exact hk m hm) (by rw [hsame.nIn, nIn_eq_neurons])

/-! ### COUNT, a chunk, and CLASSIFY (R161 to R163) -/

theorem count_alike (h : InfersAlike n s t) (hn : s.neurons s.lastLayer ≤ n) (c : ℕ) :
    InfersAlike 0 (countEffect c s) (countEffect c t) := by
  have hs := count_changes c s
  obtain ⟨⟨a, o, hsframe⟩, hscount, -⟩ := count_adds c s
  obtain ⟨⟨b, p, htframe⟩, htcount, -⟩ := count_adds c t
  refine ⟨h.setup_of_changes hs (count_changes c t), hs.sameSetup.stale.trans h.stale, fun l i => ?_, fun i d => ?_,
    fun i hi => absurd hi (Nat.not_lt_zero i)⟩
  · rw [hsframe, htframe]
    exact h.vAt l i
  · have hbits : ∀ i < s.neurons s.lastLayer, t.setBits t.params.tau i = s.setBits s.params.tau i := fun i hi => by
      rw [h.setup.params, State.setBits, State.setBits]
      exact congrArg List.length (List.filter_congr fun r hr => h.inputs i (hi.trans_le hn) r (List.mem_range.1 hr))
    rw [hscount, htcount, h.setup.lastLayer, h.setup.neurons, h.countAt, h.countAt]
    by_cases hi : i < s.neurons s.lastLayer
    · rw [if_pos hi, if_pos hi, hbits i hi]
    · rw [if_neg hi, if_neg hi]

theorem chunk_alike (h : InfersAlike 0 s t) (hk : ∀ l < s.nLayers, s.kind l ≠ .reserved) (k c : ℕ) :
    InfersAlike 0 (chunkEffect k s c) (chunkEffect k t c) := by
  have hload := (loadch_changes h.stale c k).sameSetup
  have hlayers := layers_alike (m := s.nLayers) (by rw [hload.neurons]; exact loadch_alike h c k)
    (fun l hl => by rw [hload.kind]; exact hk l (hload.nLayers ▸ hl)) (by rw [hload.nLayers])
  rw [chunkEffect, chunkEffect, h.setup.nLayers]
  refine count_alike hlayers ?_ c
  have hsame := hload.trans (InferenceChanges.foldl (s := loadchEffect c k s)
    (fun u l hu => layerSwap_changes (hu.stale.trans (hload.stale.trans h.stale)) l) (List.range s.nLayers)).sameSetup
  rw [hsame.neurons, hsame.lastLayer, hload.neurons, State.lastLayer]

theorem chunks_alike (h : InfersAlike 0 s t) (hk : ∀ l < s.nLayers, s.kind l ≠ .reserved) (k : ℕ) (xs : List ℕ) :
    InfersAlike 0 (xs.foldl (chunkEffect k) s) (xs.foldl (chunkEffect k) t) := by
  induction xs generalizing s t with
  | nil => exact h
  | cons c xs ih =>
    have hsame := (chunk_changes h.stale k c).sameSetup
    exact ih (chunk_alike h hk k c) fun l hl => by
      rw [hsame.kind]
      exact hk l (hsame.nLayers ▸ hl)

theorem classOf_alike (h : InfersAlike n s t) : t.classOf = s.classOf := by
  have htotal : t.total = s.total := funext fun i => by simp only [State.total, h.countAt, h.setup.params]
  have hmax : t.maxTotal = s.maxTotal := by
    rw [State.maxTotal, State.maxTotal, htotal, h.setup.lastLayer, h.setup.neurons]
  rw [State.classOf, State.classOf, hmax, htotal, h.setup.lastLayer, h.setup.neurons]

/-- RUN clears what could differ and then infers alike (R159, R160, R163). -/
theorem run_alike (hsetup : SameSetup s t) (hs : s.stale = []) (hk : ∀ l < s.nLayers, s.kind l ≠ .reserved) (k : ℕ) :
    (runEffect k t).regs.result = (runEffect k s).regs.result ∧
      ∀ i c, (runEffect k t).countAt i c = (runEffect k s).countAt i c := by
  have hclear : ∀ u, InferenceChanges 0 u (clrcntEffect (zeroEffect u)) := fun u =>
    (zero_changes u).trans (clrcnt_changes _)
  have hstart : InfersAlike 0 (clrcntEffect (zeroEffect s)) (clrcntEffect (zeroEffect t)) :=
    ⟨(hclear s).sameSetup.symm.trans (hsetup.trans (hclear t).sameSetup), hs, fun _ _ => rfl, fun _ _ => rfl,
      fun i hi => absurd hi (Nat.not_lt_zero i)⟩
  have hend := chunks_alike hstart hk k (List.range s.params.nChunks)
  unfold runEffect
  rw [hsetup.params]
  exact ⟨classOf_alike hend, hend.countAt⟩

end Alike

/-! ### The statement -/

/-- A configuration that passes INIT's checks has no layer of the reserved kind (R157 sub 2). -/
theorem kind_ne_reserved_of_cfgError {s : State} (h : cfgError s = none) : ∀ l < s.nLayers, s.kind l ≠ .reserved := by
  intro l hl hk
  unfold cfgError at h
  split at h
  · cases h
  · have hpass := List.findSome?_eq_none_iff.1 h l (List.mem_range.2 hl)
    rw [layerCfgError, if_pos hk] at hpass
    cases hpass

/-- Settles O54: acceptance empties both records of replaced bytes, and RUN starts from the same setup. -/
theorem runDeterminism : Obligations.RunDeterminism := by
  intro s₁ s₂ k hs₁ hs₂ _ hp hn hlayers hmode hsrc hth hdk hmem hcfg hlast
  have hsetup : SameSetup (latch (encode (.run k)) s₁) (latch (encode (.run k)) s₂) :=
    ⟨(latch (encode (.run k)) s₂).regs, s₂.arr, s₂.draws, s₂.rdata, s₂.inputs, by
      simp only [latch, ← hp, ← hn, ← hlayers, ← hmode, ← hsrc, ← hth, ← hdk, ← hmem]⟩
  have hlast₂ : runLastAddr k s₂ < 2 ^ 32 := (hsetup.runLastAddr k).trans_lt hlast
  obtain ⟨hresult, hcounts⟩ := run_alike hsetup (latch_stale _ s₁) (kind_ne_reserved_of_cfgError hcfg) k
  exact ⟨_, _, exec_accepted hs₁.1 (acceptError_run hs₁ hlast), exec_accepted hs₂.1 (acceptError_run hs₂ hlast₂),
    hresult, hcounts⟩

end Sys2Proof.Machine
end

section
/-! What the effects of the commands keep besides the frame `Touches`, also while the platform changes TMEM: canonical
arrays, CONFIGURED, and OVF once it is set (spec/10_state.md R23, spec/42_alu.md R120). -/

namespace Sys2Proof.Machine

/-! ### Canonical arrays, array by array (R48 to R54) -/

section Setters

variable {s : State} (h : ArraysWf s.arr)
include h

theorem arraysWf_setV (l i : ℕ) (x : Word) : ArraysWf (s.setV l i x).arr := by
  obtain ⟨hv, hrest⟩ := h
  exact ⟨tableWf_cellSet hv (l, i) x, hrest⟩

theorem arraysWf_setRf (l i : ℕ) (x : Bit) : ArraysWf (s.setRf l i x).arr := by
  obtain ⟨hv, hrf, hrest⟩ := h
  exact ⟨hv, tableWf_cellSet hrf (l, i) x, hrest⟩

theorem arraysWf_setTh (l i : ℕ) (x : Half) : ArraysWf (s.setTh l i x).arr := by
  obtain ⟨hv, hrf, hth, hrest⟩ := h
  exact ⟨hv, hrf, tableWf_cellSet hth (l, i) x, hrest⟩

theorem arraysWf_setDk (l i : ℕ) (x : Half) : ArraysWf (s.setDk l i x).arr := by
  obtain ⟨hv, hrf, hth, hdk, hrest⟩ := h
  exact ⟨hv, hrf, hth, tableWf_cellSet hdk (l, i) x, hrest⟩

theorem arraysWf_setSum (i : ℕ) (x : Word) : ArraysWf (s.setSum i x).arr := by
  obtain ⟨hv, hrf, hth, hdk, hsum, hrest⟩ := h
  exact ⟨hv, hrf, hth, hdk, tableWf_cellSet hsum (0, i) x, hrest⟩

theorem arraysWf_setCount (i c : ℕ) (x : Word) : ArraysWf (s.setCount i c x).arr := by
  obtain ⟨hv, hrf, hth, hdk, hsum, hcounts, hrest⟩ := h
  exact ⟨hv, hrf, hth, hdk, hsum, tableWf_cellSet hcounts (i, c) x, hrest⟩

theorem arraysWf_setSb (k : Buf) (t b : ℕ) (x : Byte) : ArraysWf (s.setSb k t b x).arr := by
  obtain ⟨hv, hrf, hth, hdk, hsum, hcounts, hsb0, hsb1⟩ := h
  cases k with
  | sb0 => exact ⟨hv, hrf, hth, hdk, hsum, hcounts, tableWf_cellSet hsb0 (t, b) x, hsb1⟩
  | sb1 => exact ⟨hv, hrf, hth, hdk, hsum, hcounts, hsb0, tableWf_cellSet hsb1 (t, b) x⟩

/-- A write through the array port keeps the canonical form (R36). -/
theorem arraysWf_writeElement (e : Element) (v : Word) : ArraysWf (writeElement e v s).arr := by
  cases e with
  | v l i => exact arraysWf_setV h l i v
  | rf l i => exact arraysWf_setRf h l i _
  | th l i => exact arraysWf_setTh h l i _
  | dk l i => exact arraysWf_setDk h l i _
  | sum i => exact arraysWf_setSum h i v
  | counts i c => exact arraysWf_setCount h i c v
  | sb k t b => exact arraysWf_setSb h k t b _

end Setters

/-! ### The relation -/

/-- From `s` to `t` canonical arrays stay canonical, CONFIGURED does not change, and a set OVF stays set. -/
structure Retains (s t : State) : Prop where
  arrays : ArraysWf s.arr → ArraysWf t.arr
  configured : t.regs.status.configured = s.regs.status.configured
  ovf : s.regs.status.ovf = true → t.regs.status.ovf = true

theorem Retains.refl (s : State) : Retains s s := ⟨id, rfl, id⟩

theorem Retains.trans {s t u : State} (h : Retains s t) (h' : Retains t u) : Retains s u :=
  ⟨h'.arrays ∘ h.arrays, h'.configured.trans h.configured, h'.ovf ∘ h.ovf⟩

theorem Retains.foldl {α : Type} {f : State → α → State} (h : ∀ s x, Retains s (f s x)) (l : List α) (s : State) :
    Retains s (l.foldl f s) := foldl_rel Retains.refl (fun _ _ _ => Retains.trans) h l s

/-- An update of the arrays that keeps their canonical form. -/
theorem retains_arr {s : State} {a : Arrays} (h : ArraysWf s.arr → ArraysWf a) : Retains s { s with arr := a } :=
  ⟨h, rfl, id⟩

theorem retains_orOvf (s : State) (o : Bool) : Retains s (s.orOvf o) :=
  ⟨id, rfl, fun h => by rw [orOvf_ovf, h, Bool.true_or]⟩

theorem retains_memRead (s : State) (a : ℕ) : Retains s (s.memRead a).2 := by
  obtain ⟨d, hd⟩ := memRead_frame s a
  rw [hd]
  exact ⟨id, rfl, id⟩

theorem retains_setV (s : State) (l i : ℕ) (x : Word) : Retains s (s.setV l i x) :=
  retains_arr fun h => arraysWf_setV h l i x

theorem retains_setSum (s : State) (i : ℕ) (x : Word) : Retains s (s.setSum i x) :=
  retains_arr fun h => arraysWf_setSum h i x

theorem retains_sbSet (s : State) (k : Buf) (n t : ℕ) (x : Bool) : Retains s (s.sbSet k n t x) := by
  have hwf (h : ArraysWf s.arr) : ArraysWf (s.sbSet k n t x).arr := arraysWf_setSb h k t (n / 8) _
  cases k <;> exact retains_arr hwf

/-! ### The shared operations -/

theorem retains_mapLanes (l n : ℕ) (f : ℕ → Option (Word × Bool)) (s : State) : Retains s (mapLanes l n f s) := by
  refine Retains.foldl (fun s i => ?_) _ s
  cases f i with
  | none => exact .refl s
  | some r => exact (retains_setV s l i r.1).trans (retains_orOvf _ r.2)

theorem retains_addSum (i : ℕ) (x : ℤ) (s : State) : Retains s (addSum i x s) :=
  (retains_setSum s i _).trans (retains_orOvf _ _)

theorem retains_loadSums (ts : List (ℕ × ℕ)) (s : State) : Retains s (loadSums ts s) :=
  .foldl (fun s (p : ℕ × ℕ) => (retains_memRead s p.2).trans (retains_setSum _ p.1 _)) ts s

theorem retains_accumulateSums (ts : List (ℕ × ℕ)) (s : State) : Retains s (accumulateSums ts s) :=
  .foldl (fun s (p : ℕ × ℕ) => (retains_memRead s p.2).trans (retains_addSum p.1 _ _)) ts s

/-! ### The effects of the commands -/

theorem retains_vcmp (l : ℕ) (s : State) : Retains s (vcmpEffect l s) :=
  .foldl (fun _ i => retains_arr fun h => arraysWf_setRf h l i _) _ s

theorem retains_vpack (l t : ℕ) (s : State) : Retains s (vpackEffect l t s) :=
  .foldl (fun s i => retains_sbSet s _ i t _) _ s

theorem retains_vbias (l : ℕ) (s : State) : Retains s (vbiasEffect l s) := by
  unfold vbiasEffect
  split
  · exact .foldl (fun s i => retains_setSum s i 0) _ s
  · exact retains_loadSums _ s
  · exact retains_loadSums _ s
  · exact .refl s

theorem retains_evacc (l j : ℕ) (s : State) : Retains s (evaccEffect l j s) := by
  unfold evaccEffect
  split
  · exact retains_addSum j _ s
  · exact retains_accumulateSums _ s
  · exact retains_accumulateSums _ s
  · exact .refl s

theorem retains_eventStep (l t : ℕ) (s : State) (j : ℕ) : Retains s (eventStep l t s j) := by
  unfold eventStep
  split
  · exact retains_evacc l j s
  · exact .refl s

theorem retains_accum (l t : ℕ) (s : State) : Retains s (accumEffect l t s) :=
  (retains_vbias l s).trans (.foldl (retains_eventStep l t) _ _)

theorem retains_decay (l : ℕ) (s : State) : Retains s (decayEffect l s) := by
  unfold decayEffect
  split
  · exact .refl s
  · exact retains_mapLanes l _ _ s

theorem retains_lifstep (l t : ℕ) (s : State) : Retains s (lifstepEffect l t s) :=
  (retains_accum l t s).trans <| (retains_decay l _).trans <| (retains_mapLanes l _ _ _).trans <|
    (retains_vcmp l _).trans <| (retains_mapLanes l _ _ _).trans (retains_vpack l t _)

theorem retains_layer (l : ℕ) (s : State) : Retains s (layerEffect l s) :=
  .foldl (fun s t => retains_lifstep l t s) _ s

theorem retains_loadBit (k a t n : ℕ) (s : State) : Retains s (loadBit k a t n s) :=
  (retains_memRead s _).trans (retains_sbSet _ _ n t _)

theorem retains_loadch (c k : ℕ) (s : State) : Retains s (loadchEffect c k s) :=
  .foldl (fun s t => .foldl (fun s n => retains_loadBit k _ t n s) _ s) _ s

theorem retains_countBit (c t : ℕ) (s : State) (i : ℕ) : Retains s (countBit c t s i) := by
  unfold countBit
  split
  · exact (retains_arr fun h => arraysWf_setCount h i c _).trans (retains_orOvf (s.setCount i c _) _)
  · exact .refl s

theorem retains_count (c : ℕ) (s : State) : Retains s (countEffect c s) :=
  .foldl (fun s t => .foldl (retains_countBit c t) _ s) _ s

theorem retains_zero (s : State) : Retains s (zeroEffect s) :=
  retains_arr fun ⟨_, _, hrest⟩ => ⟨tableWf_nil, tableWf_nil, hrest⟩

theorem retains_clrcnt (s : State) : Retains s (clrcntEffect s) :=
  retains_arr fun ⟨hv, hrf, hth, hdk, hsum, _, hrest⟩ => ⟨hv, hrf, hth, hdk, hsum, tableWf_nil, hrest⟩

theorem retains_vclr (s : State) : Retains s (vclrEffect s) :=
  retains_arr fun ⟨hv, hrf, hth, hdk, _, hrest⟩ => ⟨hv, hrf, hth, hdk, tableWf_nil, hrest⟩

theorem retains_swap (s : State) : Retains s (swapEffect s) := ⟨id, rfl, id⟩

theorem retains_classify (s : State) : Retains s (classifyEffect s) := ⟨id, rfl, id⟩

theorem retains_chunk (k : ℕ) (s : State) (c : ℕ) : Retains s (chunkEffect k s c) :=
  ((retains_loadch c k s).trans (.foldl (fun s l => (retains_layer l s).trans (retains_swap _)) _ _)).trans
    (retains_count c _)

theorem retains_run (k : ℕ) (s : State) : Retains s (runEffect k s) :=
  (((retains_zero s).trans (retains_clrcnt _)).trans (.foldl (retains_chunk k) _ _)).trans (retains_classify _)

/-- INIT's broadcast; CONFIGURED is set after it (R158). -/
theorem retains_initLayers (n : ℕ) (s : State) : Retains s ((List.range n).foldl (fun s l => initLayer l s) s) :=
  .foldl (fun s l => .foldl (fun _ i =>
    retains_arr fun h => arraysWf_setDk (arraysWf_setTh h l i _) l i _) _ s) _ s

/-- Every command but INIT, which sets CONFIGURED, and SRST, which clears CONFIGURED and OVF. -/
theorem retains_effectOf {i : Instr} (hinit : i ≠ .init) (hsrst : i ≠ .srst) (s : State) :
    Retains s (effectOf i s) := by
  cases i with
  | init => exact absurd rfl hinit
  | srst => exact absurd rfl hsrst
  | nop | quant | dequant | sbget => exact ⟨id, rfl, id⟩
  | zero => exact retains_zero s
  | clrcnt => exact retains_clrcnt s
  | sbset r n t v => exact retains_sbSet s _ n t v
  | swap => exact retains_swap s
  | loadch c k => exact retains_loadch c k s
  | vclr => exact retains_vclr s
  | vscale l => exact retains_mapLanes l _ (vscaleLane s l) s
  | vadd l => exact retains_mapLanes l _ (vaddLane s l) s
  | vcmp l => exact retains_vcmp l s
  | vsubt l => exact retains_mapLanes l _ (vsubtLane s l) s
  | vpack l t => exact retains_vpack l t s
  | vbias l => exact retains_vbias l s
  | evacc l j => exact retains_evacc l j s
  | accum l t => exact retains_accum l t s
  | lifstep l t => exact retains_lifstep l t s
  | layer l => exact retains_layer l s
  | count c => exact retains_count c s
  | classify => exact retains_classify s
  | run k => exact retains_run k s

/-- Every command's effects leave canonical arrays canonical; SRST leaves them as they are (R156). -/
theorem arraysWf_effectOf (i : Instr) {s : State} (h : ArraysWf s.arr) : ArraysWf (effectOf i s).arr := by
  by_cases hsrst : i = .srst
  · subst hsrst
    exact h
  · by_cases hinit : i = .init
    · subst hinit
      exact (retains_initLayers s.nLayers s).arrays h
    · exact (retains_effectOf hinit hsrst s).arrays h

/-- SRST alone clears OVF or CONFIGURED. -/
theorem effectOf_sets {i : Instr} (hsrst : i ≠ .srst) (s : State) :
    (s.regs.status.ovf = true → (effectOf i s).regs.status.ovf = true) ∧
    (s.regs.status.configured = true → (effectOf i s).regs.status.configured = true) := by
  by_cases hinit : i = .init
  · subst hinit
    exact ⟨(retains_initLayers s.nLayers s).ovf, fun _ => rfl⟩
  · have h := retains_effectOf hinit hsrst s
    exact ⟨h.ovf, h.configured.trans⟩

end Sys2Proof.Machine
end

section
/-! Refused commands (spec/60_exceptions.md R170 to R178): which error acceptance answers, check by check, and what a
command that raises it leaves. -/

namespace Sys2Proof.Machine

/-! ### A word that is no command (R174) -/

/-- A word that no row of the table selects does not decode (R84, R85). -/
theorem decode_of_no_row {w : Word} (h : ∀ row ∈ opcodeTable, w &&& row.mask ≠ row.pattern) :
    ∃ d, decode w = .error d := by
  cases hd : decode w with
  | error d => exact ⟨d, rfl⟩
  | ok i => exact absurd (and_rowOf_of_decode hd) (h (rowOf i) (rowOf_mem i))

/-- A listing line's word that is no command, the input taken: the register port's checks come first (R180). -/
theorem step_command_illegal {w : Word} {d : DecodeError} (h : decode w = .error d) (s : State) :
    step (given (.command w) s) = .next (if s.regs.status.busy = true then refuseBusyCommand s
      else raise { kind := .illcmd, info := w } s) := by
  have hfetch : fetch (given (.command w) s) = .done (.next (if s.regs.status.busy = true then refuseBusyCommand s
      else raise { kind := .illcmd, info := w } s)) := by
    simp only [fetch, given, fetchInput, fetchCommand, h]
    rfl
  rw [step, hfetch]

/-- Settles O4: a word of no row does not decode, and acceptance looks at nothing else first. -/
theorem illegalWordRefused : Obligations.IllegalWordRefused := by
  intro s w hb hrow
  obtain ⟨d, hd⟩ := decode_of_no_row hrow
  constructor
  · rw [step_regWrite, hostWrite_cmd hb, acceptWord, hd]
    rfl
  · rw [step_command_illegal hd, hb]
    rfl

/-! ### The checks of acceptance in their order (spec/30_encoding.md R89) -/

/-- A check of the present state fails: FATAL, INIT while configured, or a configuration missing (R175). -/
def StateForbids (i : Instr) (s : State) : Prop :=
  (s.regs.status.fatal = true ∧ i ≠ .srst) ∨ (i = .init ∧ s.regs.status.configured = true) ∨
    (needsConfigured i = true ∧ s.regs.status.configured = false)

section Checks

variable {i : Instr} {s : State}

theorem acceptError_of_forbidden (h : StateForbids i s) :
    acceptError i s = some { kind := .state, info := encode i } := by
  unfold acceptError
  split
  · rfl
  · split
    · rfl
    · exact if_pos ((h.resolve_left ‹_›).resolve_left ‹_›)

theorem acceptError_of_allowed (h : ¬StateForbids i s) :
    acceptError i s =
      if operandsInRange i s = false then some { kind := .idx, info := encode i }
      else if sourceInRange i s = false then some { kind := .mem, info := encode i }
      else lastChecks i s := by
  obtain ⟨hfatal, hinit, hconf⟩ : _ ∧ _ ∧ _ := by simpa only [StateForbids, not_or] using h
  rw [acceptError, if_neg hfatal, if_neg hinit, if_neg hconf]

/-- The state of a unit that is idle, and configured where the command asks for it, allows every command but INIT. -/
theorem not_stateForbids (hf : s.regs.status.fatal = false) (hi : i ≠ .init)
    (hc : needsConfigured i = true → s.regs.status.configured = true) : ¬StateForbids i s := by
  rintro (⟨h, -⟩ | ⟨h, -⟩ | ⟨h, h'⟩)
  · simp [hf] at h
  · exact hi h
  · simp [hc h] at h'

/-- A configuration error comes from INIT, of a unit that is not configured (R157, R172). -/
theorem lastChecks_cases {e : ErrRecord} (h : lastChecks i s = some e) :
    e = { kind := .nan, info := s.regs.codecIn } ∨
    (i = .init ∧ ∃ sub l, e = { kind := .cfg, info := cfgInfo (sub, l) }) := by
  unfold lastChecks at h
  split at h
  · exact .inl (Option.some.inj h).symm
  · split at h
    · next hi =>
      obtain ⟨⟨sub, l⟩, -, rfl⟩ := Option.map_eq_some_iff.1 h
      exact .inr ⟨hi, sub, l, rfl⟩
    · cases h

/-- Every error acceptance can answer (R173, R175, R177, R178, R172). -/
theorem acceptError_cases {e : ErrRecord} (h : acceptError i s = some e) :
    e = { kind := .state, info := encode i } ∨ e = { kind := .idx, info := encode i } ∨
    e = { kind := .mem, info := encode i } ∨ e = { kind := .nan, info := s.regs.codecIn } ∨
    (s.regs.status.configured = false ∧ ∃ sub l, e = { kind := .cfg, info := cfgInfo (sub, l) }) := by
  by_cases hstate : StateForbids i s
  · rw [acceptError_of_forbidden hstate] at h
    exact .inl (Option.some.inj h).symm
  · rw [acceptError_of_allowed hstate] at h
    split at h
    · exact .inr (.inl (Option.some.inj h).symm)
    · split at h
      · exact .inr (.inr (.inl (Option.some.inj h).symm))
      · obtain hnan | ⟨hi, hcfg⟩ := lastChecks_cases h
        · exact .inr (.inr (.inr (.inl hnan)))
        · have hconf : s.regs.status.configured = false := by
            by_contra hc
            exact hstate (.inr (.inl ⟨hi, by simpa using hc⟩))
          exact .inr (.inr (.inr (.inr ⟨hconf, hcfg⟩)))

end Checks

/-! ### The refusals (R173, R175, R178) -/

theorem exec_refused {i : Instr} {s : State} {e : ErrRecord} (hb : s.regs.status.busy = false)
    (he : acceptError i s = some e) : exec i s = .next (raise e s) := by
  rw [exec_eq_issue, issue_refused hb he]

theorem exec_forbidden {i : Instr} {s : State} (hb : s.regs.status.busy = false) (h : StateForbids i s) :
    exec i s = .next (refusedState i s) :=
  exec_refused hb (acceptError_of_forbidden h)

/-- Settles O19: each of the three cases of R175 forbids the command. -/
theorem stateRefused : Obligations.StateRefused := by
  intro s hb
  refine ⟨fun hf i hi => exec_fatal hb hf hi, fun hc => exec_forbidden hb (.inr (.inl ⟨rfl, hc⟩)), ?_⟩
  intro hc a b i hi
  have hneeds : needsConfigured i = true := by
    simp only [List.mem_cons, List.not_mem_nil, or_false] at hi
    obtain rfl | rfl | rfl | rfl | rfl | rfl | rfl | rfl | rfl | rfl | rfl | rfl | rfl | rfl := hi <;> rfl
  exact exec_forbidden hb (.inr (.inr ⟨hneeds, hc⟩))

section Operands

variable {i : Instr} {s : State} (hs : Idle s)
  (hc : needsConfigured i = true → s.regs.status.configured = true)
include hs hc

/-- Step 4: the operands come right after the state; INIT has none. -/
theorem exec_outOfRange (h : operandsInRange i s = false) : exec i s = .next (refusedIdx i s) := by
  have hi : i ≠ .init := by
    rintro rfl
    cases h
  exact exec_refused hs.1 ((acceptError_of_allowed (not_stateForbids hs.2 hi hc)).trans (if_pos h))

/-- Step 5: the source comes after the operands. -/
theorem exec_pastMemory (hrange : operandsInRange i s = true) (h : sourceInRange i s = false) :
    exec i s = .next (refusedMem i s) := by
  have hi : i ≠ .init := by
    rintro rfl
    cases h
  have he : acceptError i s = some { kind := .mem, info := encode i } := by
    rw [acceptError_of_allowed (not_stateForbids hs.2 hi hc), hrange, if_neg Bool.noConfusion, if_pos h]
  exact exec_refused hs.1 he

end Operands

/-- Settles O20, range by range of the table of R89. -/
theorem outOfRangeRefused : Obligations.OutOfRangeRefused := by
  refine ⟨?_, ?_, ?_, ?_, ?_⟩
  · intro s r n t v hs hout i hi
    simp only [List.mem_cons, List.not_mem_nil, or_false] at hi
    obtain rfl | rfl := hi <;> exact exec_outOfRange hs nofun (decide_eq_false (by omega))
  · intro s c k hs hout i hi
    simp only [List.mem_cons, List.not_mem_nil, or_false] at hi
    obtain rfl | rfl := hi <;> exact exec_outOfRange hs.1 (fun _ => hs.2) (decide_eq_false (by omega))
  · intro s l b hs hout i hi
    simp only [List.mem_cons, List.not_mem_nil, or_false] at hi
    obtain rfl | rfl | rfl | rfl | rfl | rfl | rfl | rfl | rfl | rfl := hi <;>
      exact exec_outOfRange hs.1 (fun _ => hs.2) (decide_eq_false (by omega))
  · intro s l t hs hout i hi
    simp only [List.mem_cons, List.not_mem_nil, or_false] at hi
    obtain rfl | rfl | rfl := hi <;> exact exec_outOfRange hs.1 (fun _ => hs.2) (decide_eq_false (by omega))
  · intro s l j hs hout
    exact exec_outOfRange hs.1 (fun _ => hs.2) (decide_eq_false (by omega))

/-- Settles O21: the highest source address of LOADCH (R116) and of RUN (R164) is what step 5 checks. -/
theorem sourceRefused : Obligations.SourceRefused := by
  constructor
  · intro s c k hs hc hlast
    have hpast : ¬loadchLastAddr c k s < 2 ^ 32 := Nat.not_lt.2 hlast
    exact exec_pastMemory hs.1 (fun _ => hs.2) (decide_eq_true hc) (decide_eq_false hpast)
  · intro s k hs hlast
    have hpast : ¬runLastAddr k s < 2 ^ 32 := Nat.not_lt.2 hlast
    exact exec_pastMemory hs.1 (fun _ => hs.2) rfl (decide_eq_false hpast)

/-! ### Every command is precise (R170) -/

/-- A command other than SRST leaves its word in CMD, BUSY = 0 and the error record as it was. -/
theorem completed_keeps_record {i : Instr} (hi : i ≠ .srst) (s : State) :
    (finish (effectOf i s)).regs.cmd = s.regs.cmd ∧ (finish (effectOf i s)).regs.errcode = s.regs.errcode ∧
    (finish (effectOf i s)).regs.errinfo = s.regs.errinfo ∧
    (finish (effectOf i s)).regs.status.fatal = s.regs.status.fatal ∧
    ∀ k, errFlag k (finish (effectOf i s)).regs.status = errFlag k s.regs.status := by
  obtain ⟨a, d, co, br, res, sel, o, c, h⟩ := touches_effectOf hi s
  rw [h]
  exact ⟨rfl, rfl, rfl, rfl, fun k => by cases k <;> rfl⟩

/-- Settles O18: refused by the busy port, refused by a check of acceptance, or completed. -/
theorem commandsArePrecise : Obligations.CommandsArePrecise := by
  intro i s
  rw [exec_eq_issue]
  obtain ⟨-, h⟩ | ⟨e, -, he, h⟩ | ⟨-, -, h⟩ := issue_cases i (effectOf i) s
  · exact ⟨_, h, .inl ⟨refusedAccess 1 0x010 s, by simp, rfl⟩⟩
  · refine ⟨_, h, ?_⟩
    obtain rfl | rfl | rfl | rfl | ⟨-, sub, l, rfl⟩ := acceptError_cases he
    · exact .inl ⟨refusedState i s, by simp, rfl⟩
    · exact .inl ⟨refusedIdx i s, by simp, rfl⟩
    · exact .inl ⟨refusedMem i s, by simp, rfl⟩
    · exact .inl ⟨refusedNan s, by simp, rfl⟩
    · exact .inr (.inl ⟨sub, l, rfl⟩)
  · refine ⟨_, h, .inr (.inr ⟨finish_busy _, fun hi => ?_⟩)⟩
    obtain ⟨hcmd, hcode, hinfo, hfatal, hflags⟩ := completed_keeps_record hi (latch (encode i) s)
    exact ⟨hcmd, hcode, hinfo, hfatal, fun k _ => (hflags k).trans (by cases k <;> rfl)⟩

end Sys2Proof.Machine
end

section
/-! What clears the error record (spec/60_exceptions.md R181, R183): SRST and the hardware reset; every other step keeps
each flag that is set and the first error. -/

namespace Sys2Proof.Machine

/-- From `s` to `t` the first error stays in ERRCODE and ERRINFO, and no sticky flag, FATAL, OVF or CONFIGURED is
cleared. -/
structure Sticky (s t : State) : Prop where
  record : s.regs.errcode ≠ 0 → t.regs.errcode = s.regs.errcode ∧ t.regs.errinfo = s.regs.errinfo
  flags : ∀ k, errFlag k s.regs.status = true → errFlag k t.regs.status = true
  fatal : s.regs.status.fatal = true → t.regs.status.fatal = true
  ovf : s.regs.status.ovf = true → t.regs.status.ovf = true
  configured : s.regs.status.configured = true → t.regs.status.configured = true

theorem Sticky.trans {s t u : State} (h : Sticky s t) (h' : Sticky t u) : Sticky s u where
  record hs := by
    obtain ⟨hcode, hinfo⟩ := h.record hs
    obtain ⟨hcode', hinfo'⟩ := h'.record (hcode ▸ hs)
    exact ⟨hcode'.trans hcode, hinfo'.trans hinfo⟩
  flags k := h'.flags k ∘ h.flags k
  fatal := h'.fatal ∘ h.fatal
  ovf := h'.ovf ∘ h.ovf
  configured := h'.configured ∘ h.configured

/-- A step that writes neither STATUS nor the error record. -/
theorem Sticky.of_same {s t : State} (hstatus : t.regs.status = s.regs.status)
    (hcode : t.regs.errcode = s.regs.errcode) (hinfo : t.regs.errinfo = s.regs.errinfo) : Sticky s t where
  record _ := ⟨hcode, hinfo⟩
  flags k h := by rw [hstatus, h]
  fatal h := by rw [hstatus, h]
  ovf h := by rw [hstatus, h]
  configured h := by rw [hstatus, h]

/-- Raising an error records the first one only, and sets flags (R181, R182). -/
theorem sticky_raise (e : ErrRecord) (s : State) : Sticky s (raise e s) where
  record h := ⟨if_neg h, if_neg h⟩
  flags k h := (errFlag_raiseStatus e.kind k s.regs.status).trans (by rw [h, Bool.true_or])
  fatal h := (raiseStatus_fatal e.kind s.regs.status).trans (by rw [h, Bool.true_or])
  ovf h := (raiseStatus_ovf e.kind s.regs.status).trans h
  configured h := (raiseStatus_configured e.kind s.regs.status).trans h

/-- Acceptance sets BUSY only. -/
theorem sticky_latch (w : Word) (s : State) : Sticky s (latch w s) where
  record _ := ⟨rfl, rfl⟩
  flags k h := by cases k <;> exact h
  fatal := id
  ovf := id
  configured := id

theorem sticky_finish_effectOf {i : Instr} (hi : i ≠ .srst) (s : State) : Sticky s (finish (effectOf i s)) := by
  obtain ⟨-, hcode, hinfo, hfatal, hflags⟩ := completed_keeps_record hi s
  obtain ⟨hovf, hconf⟩ := effectOf_sets hi s
  exact ⟨fun _ => ⟨hcode, hinfo⟩, fun k => (hflags k).trans, hfatal.trans, hovf, hconf⟩

/-- The Complete step, unless it completes an SRST. -/
theorem sticky_completeStep {s t : State} (h : completeStep s = .next t)
    (hs : ¬(s.regs.status.busy = true ∧ s.regs.cmd = 0x01000000)) : Sticky s t := by
  obtain ⟨-, rfl⟩ | ⟨hb, i, hi, rfl⟩ := completeStep_cases h
  · exact .of_same rfl rfl rfl
  · refine sticky_finish_effectOf ?_ s
    rintro rfl
    exact hs ⟨hb, (encode_of_decode hi).symm⟩

/-- A listing line, unless it is an SRST that an idle unit takes. -/
theorem sticky_exec {i : Instr} {s t : State} (h : exec i s = .next t)
    (hs : ¬(s.regs.status.busy = false ∧ i = .srst)) : Sticky s t := by
  rw [exec_eq_issue] at h
  obtain ⟨-, h'⟩ | ⟨e, -, -, h'⟩ | ⟨hb, -, h'⟩ := issue_cases i (effectOf i) s
  all_goals obtain rfl := Host.Outcome.next.inj (h.symm.trans h')
  · exact sticky_raise _ s
  · exact sticky_raise e s
  · exact (sticky_latch (encode i) s).trans (sticky_finish_effectOf (fun hi => hs ⟨hb, hi⟩) _)

theorem sticky_hostRead (off width : ℕ) (s : State) : Sticky s (hostRead off width s) := by
  obtain ⟨r, -, h⟩ | ⟨sub, -, h⟩ := hostRead_cases off width s
  · exact h ▸ .of_same rfl rfl rfl
  · have hraise := sticky_raise (accessError sub off) s
    exact h ▸ ⟨hraise.record, hraise.flags, hraise.fatal, hraise.ovf, hraise.configured⟩

theorem sticky_acceptWord (w : Word) (s : State) : Sticky s (acceptWord w s) := by
  obtain ⟨h, -⟩ | ⟨i, e, -, -, h⟩ | ⟨i, -, -, h⟩ := acceptWord_cases w s
  · exact h ▸ sticky_raise _ s
  · exact h ▸ sticky_raise e s
  · exact h ▸ sticky_latch w s

/-- STATUS, ERRCODE and ERRINFO are read-only (R23 to R25); a command word written to CMD is only latched. -/
theorem sticky_writeReg (r : Reg) (v : Word) (s : State) : Sticky s (writeReg r v s) := by
  cases r with
  | cmd => exact sticky_acceptWord v s
  | adata =>
    rw [writeReg, writePort]
    split
    · next e _ =>
      obtain ⟨a, ha⟩ := writeElement_frame e v s
      exact ha ▸ .of_same rfl rfl rfl
    · exact .of_same rfl rfl rfl
  | _ => exact .of_same rfl rfl rfl

theorem sticky_hostWrite (off width : ℕ) (v : Word) (s : State) : Sticky s (hostWrite off width v s) := by
  obtain ⟨r, -, h⟩ | ⟨sub, -, h⟩ := hostWrite_cases off width v s
  · exact h ▸ sticky_writeReg r v s
  · exact h ▸ sticky_raise _ s

/-- The step that takes input `e` from `s` is SRST taking effect. -/
def InputSoftResets (e : Input) (s : State) : Prop :=
  (s.regs.status.busy = false ∧ e = .command 0x01000000) ∨
  (s.regs.status.busy = true ∧ s.regs.cmd = 0x01000000 ∧ e = .complete)

theorem sticky_takesInput {e : Input} {s t : State} (h : TakesInput e s t) (hreset : ∀ a, e ≠ .hwReset a)
    (hs : ¬InputSoftResets e s) : Sticky s t := by
  cases e with
  | regRead off width => exact h ▸ sticky_hostRead off width s
  | regWrite off width v => exact h ▸ sticky_hostWrite off width v s
  | command w =>
    obtain ⟨i, hi, h⟩ | ⟨-, ⟨-, rfl⟩ | ⟨-, rfl⟩⟩ := h
    · refine sticky_exec h fun ⟨hb, hsrst⟩ => hs (.inl ⟨hb, ?_⟩)
      rw [← encode_of_decode hi, hsrst]
      rfl
    · exact sticky_raise _ s
    · exact sticky_raise _ s
  | complete => exact sticky_completeStep h fun ⟨hb, hcmd⟩ => hs (.inr ⟨hb, hcmd, rfl⟩)
  | hwReset a => exact absurd rfl (hreset a)
  | tmemWrite a b =>
    obtain rfl : t = platformStore a b s := h
    exact .of_same rfl rfl rfl

/-! ### SRST (R156) -/

theorem decode_srst : decode 0x01000000 = .ok .srst := by decide

/-- No check of acceptance refuses SRST. -/
theorem acceptError_srst (s : State) : acceptError .srst s = none :=
  (acceptError_eq_none _ _).2 ⟨.inr rfl, nofun, nofun, rfl, rfl, lastChecks_other (i := .srst) nofun nofun s⟩

theorem regs_of_exec_srst {s t : State} (hb : s.regs.status.busy = false) (h : exec .srst s = .next t) :
    t.regs = .reset s.params.maxLayers := by
  rw [exec_eq_issue, issue_accepted hb (acceptError_srst s)] at h
  obtain rfl := Host.Outcome.next.inj h
  rfl

theorem regs_of_complete_srst {s t : State} (hb : s.regs.status.busy = true) (hcmd : s.regs.cmd = 0x01000000)
    (h : completeStep s = .next t) : t.regs = .reset s.params.maxLayers := by
  obtain ⟨hidle, -⟩ | ⟨-, i, hi, rfl⟩ := completeStep_cases h
  · simp [hb] at hidle
  · obtain rfl : Instr.srst = i := Except.ok.inj (decode_srst.symm.trans (hcmd ▸ hi))
    rfl

theorem regs_of_inputSoftResets {e : Input} {s t : State} (h : TakesInput e s t) (hs : InputSoftResets e s) :
    t.regs = .reset s.params.maxLayers := by
  obtain ⟨hb, rfl⟩ | ⟨hb, hcmd, rfl⟩ := hs
  · obtain ⟨i, hi, h⟩ | ⟨⟨d, hd⟩, -⟩ := h
    · obtain rfl : Instr.srst = i := Except.ok.inj (decode_srst.symm.trans hi)
      exact regs_of_exec_srst hb h
    · cases decode_srst.symm.trans hd
  · exact regs_of_complete_srst hb hcmd h

/-- `SoftResets`, with no input left and with one. -/
theorem softResets_nil {s : State} (hs : s.inputs = []) :
    SoftResets s ↔ s.regs.status.busy = true ∧ s.regs.cmd = 0x01000000 := by
  simp [SoftResets, hs]

theorem softResets_cons {s : State} {e : Input} {rest : List Input} (hs : s.inputs = e :: rest) :
    SoftResets s ↔ InputSoftResets e { s with inputs := rest } := by
  simp [SoftResets, InputSoftResets, hs]

/-- Settles O17: by the next input; a word of SRST resets, and every other one is sticky. -/
theorem errorsAreSticky : Obligations.ErrorsAreSticky := by
  intro s t h hreset
  suffices hmain : (SoftResets s → t.regs = .reset s.params.maxLayers) ∧ (¬SoftResets s → Sticky s t) by
    refine ⟨hmain.1, fun hs => ?_⟩
    obtain ⟨hrecord, hflags, hfatal, hovf, hconf⟩ := hmain.2 hs
    exact ⟨hrecord, fun k _ => hflags k, hfatal, hovf, hconf⟩
  obtain ⟨hnil, h⟩ | ⟨e, rest, hcons, h⟩ := step_cases h
  · rw [softResets_nil hnil]
    exact ⟨fun ⟨hb, hcmd⟩ => regs_of_complete_srst hb hcmd h, sticky_completeStep h⟩
  · have hinput : ∀ a, e ≠ .hwReset a := by simpa [hcons] using hreset
    rw [softResets_cons hcons]
    refine ⟨regs_of_inputSoftResets h, fun hs => ?_⟩
    obtain ⟨hrecord, hflags, hfatal, hovf, hconf⟩ := sticky_takesInput h hinput hs
    exact ⟨hrecord, hflags, hfatal, hovf, hconf⟩

end Sys2Proof.Machine
end

section
/-! The invariant of the machine (spec/60_exceptions.md R170, R181, spec/10_state.md R47, spec/30_encoding.md R89): with
its parts named, each kind of step keeps it, and from a state that meets it every step answers a next state. -/

namespace Sys2Proof.Machine

/-! ### The invariant with its parts named -/

/-- `Inv`, its clauses named. -/
structure Sound (s : State) : Prop where
  params : s.params.Valid
  layers : s.regs.layers.length = s.params.maxLayers
  arrays : ArraysWf s.arr
  memory : Memory.wf s.tmem
  inputs : ∀ e ∈ s.inputs, inputWf e = true
  stale : s.regs.status.busy = false → s.stale = []
  latched : s.regs.status.busy = true → commandLatched s = true
  topology : TopologyHolds s
  fatal : s.regs.status.fatal = true → s.regs.status.eCfg = true
  errors : ErrorRecordWf s.regs

theorem inv_iff_sound (s : State) : Inv s ↔ Sound s := by
  constructor
  · rintro ⟨hparams, hlayers, harrays, hmemory, hinputs, hstale, hlatched, htopology, hfatal, herrors⟩
    exact ⟨hparams, hlayers, harrays, hmemory, hinputs, hstale, hlatched, htopology, hfatal, herrors⟩
  · rintro ⟨hparams, hlayers, harrays, hmemory, hinputs, hstale, hlatched, htopology, hfatal, herrors⟩
    exact ⟨hparams, hlayers, harrays, hmemory, hinputs, hstale, hlatched, htopology, hfatal, herrors⟩

/-! ### What the parts look at -/

/-- INIT's checks look at the parameters, NLAYERS and the descriptors only (R157). -/
theorem cfgError_congr {s t : State} (hp : t.params = s.params) (hn : t.regs.nlayers = s.regs.nlayers)
    (hl : t.regs.layers = s.regs.layers) : cfgError t = cfgError s := by
  have hview (u : State) : cfgError u = cfgError { State.reset with
      params := u.params, regs.nlayers := u.regs.nlayers, regs.layers := u.regs.layers } := rfl
  rw [hview t, hview s, hp, hn, hl]

theorem commandLatched_iff (s : State) :
    commandLatched s = true ↔ ∃ i, decode s.regs.cmd = .ok i ∧ acceptError i s = none := by
  unfold commandLatched
  cases decode s.regs.cmd <;> simp

/-- What is latched is judged by CMD and by what acceptance looks at. -/
theorem commandLatched_congr {s t : State} (hcmd : t.regs.cmd = s.regs.cmd)
    (haccept : ∀ i, acceptError i t = acceptError i s) : commandLatched t = commandLatched s := by
  unfold commandLatched
  simp only [hcmd, haccept]

theorem mem_allErrKinds (k : ErrKind) : k ∈ allErrKinds := by cases k <;> decide

theorem errCode_ne_zero (k : ErrKind) : errCode k ≠ 0 := by cases k <;> decide

/-- A raised error is recorded, or an earlier one stands (R181). -/
theorem errorRecordWf_raise (e : ErrRecord) {s : State} (h : ErrorRecordWf s.regs) : ErrorRecordWf (raise e s).regs := by
  obtain ⟨hzero, -, -⟩ | ⟨k, hk, hcode, hflag⟩ := h
  · refine .inr ⟨e.kind, mem_allErrKinds _, if_pos hzero, ?_⟩
    exact (errFlag_raiseStatus e.kind e.kind s.regs.status).trans (by simp)
  · have hne : s.regs.errcode ≠ 0 := hcode ▸ errCode_ne_zero k
    exact .inr ⟨k, hk, (if_neg hne).trans hcode, (sticky_raise e s).flags k hflag⟩

theorem errorRecordWf_reset (m : ℕ) : ErrorRecordWf (Regs.reset m) :=
  .inl ⟨rfl, rfl, fun k _ => by cases k <;> rfl⟩

/-! ### Steps that leave the registers alone, reset them, or write one of them -/

section Keeps

variable {s : State} (h : Sound s)
include h

/-- A step that leaves the registers and the parameters alone. -/
theorem Sound.of_same_regs {t : State} (hp : t.params = s.params) (hr : t.regs = s.regs) (harrays : ArraysWf t.arr)
    (hmemory : Memory.wf t.tmem) (hinputs : ∀ e ∈ t.inputs, inputWf e = true)
    (hstale : s.regs.status.busy = false → t.stale = []) : Sound t where
  params := hp ▸ h.params
  layers := by rw [hr, hp, h.layers]
  arrays := harrays
  memory := hmemory
  inputs := hinputs
  stale := by rwa [hr]
  latched := by
    have hlatched : commandLatched t = commandLatched s :=
      commandLatched_congr (by rw [hr]) fun i => acceptError_congr i hp (by rw [hr]) (by rw [hr]) (by rw [hr])
        (by rw [hr]) (by rw [hr]) (by rw [hr])
    rw [hr, hlatched]
    exact h.latched
  topology := by
    rw [TopologyHolds, cfgError_congr hp (by rw [hr]) (by rw [hr]), hr]
    exact h.topology
  fatal := hr ▸ h.fatal
  errors := hr ▸ h.errors

/-- A step that gives every register its reset value (R191). -/
theorem Sound.of_reset {t : State} (hp : t.params = s.params) (hr : t.regs = .reset s.params.maxLayers)
    (harrays : ArraysWf t.arr) (hmemory : t.tmem = s.tmem) (hinputs : t.inputs = s.inputs) (hstale : t.stale = []) :
    Sound t where
  params := hp ▸ h.params
  layers := by simp [hr, hp, Regs.reset]
  arrays := harrays
  memory := hmemory ▸ h.memory
  inputs := hinputs ▸ h.inputs
  stale _ := hstale
  latched hb := by simp [hr, Regs.reset, Status.zero] at hb
  topology hc := by simp [hr, Regs.reset, Status.zero] at hc
  fatal hf := by simp [hr, Regs.reset, Status.zero] at hf
  errors := hr ▸ errorRecordWf_reset _

/-- A write of a register other than STATUS, ERRCODE and ERRINFO on an idle unit, the topology fixed while
CONFIGURED = 1 (R47). -/
theorem Sound.of_register {r : Regs} (hb : s.regs.status.busy = false) (hstatus : r.status = s.regs.status)
    (hcode : r.errcode = s.regs.errcode) (hinfo : r.errinfo = s.regs.errinfo)
    (hlayers : r.layers.length = s.regs.layers.length)
    (htopology : s.regs.status.configured = true → r.nlayers = s.regs.nlayers ∧ r.layers = s.regs.layers) :
    Sound { s with regs := r } where
  params := h.params
  layers := hlayers.trans h.layers
  arrays := h.arrays
  memory := h.memory
  inputs := h.inputs
  stale _ := h.stale hb
  latched hbusy := by simp [hstatus, hb] at hbusy
  topology hc := by
    rw [hstatus] at hc ⊢
    obtain ⟨hn, hl⟩ := htopology hc
    rw [cfgError_congr (s := s) (t := { s with regs := r }) rfl hn hl]
    exact h.topology hc
  fatal := by
    rw [hstatus]
    exact h.fatal
  errors := by
    rw [ErrorRecordWf, hstatus, hcode, hinfo]
    exact h.errors

theorem Sound.drop_inputs {rest : List Input} (hrest : ∀ e ∈ rest, inputWf e = true) :
    Sound { s with inputs := rest } :=
  h.of_same_regs rfl rfl h.arrays h.memory hrest h.stale

theorem Sound.answer (w : Word) : Sound { s with rdata := w } :=
  h.of_same_regs rfl rfl h.arrays h.memory h.inputs h.stale

theorem Sound.hardReset {a : Arrays} (ha : ArraysWf a) : Sound (hardReset a s) :=
  h.of_reset rfl rfl ha rfl rfl rfl

theorem Sound.platformStore (a : Word) (b : Byte) : Sound (platformStore a b s) :=
  h.of_same_regs rfl rfl h.arrays (memory_wf_cellSet h.memory a.isLt b) h.inputs fun hb => by
    rw [platformStore_stale, hb, if_neg Bool.noConfusion, h.stale hb]

/-! ### Errors, acceptance and completion (R181, R89) -/

/-- Raising an error; a configuration error is raised only while idle and unconfigured (R157, R182). -/
theorem Sound.raise {e : ErrRecord}
    (hcfg : e.kind = .cfg → s.regs.status.busy = false ∧ s.regs.status.configured = false) : Sound (raise e s) where
  params := h.params
  layers := h.layers
  arrays := h.arrays
  memory := h.memory
  inputs := h.inputs
  stale hb := h.stale ((raise_busy e s).symm.trans hb)
  latched hb := by
    rw [raise_busy] at hb
    have hfatal : (Machine.raise e s).regs.status.fatal = s.regs.status.fatal := by
      have hkind : e.kind ≠ .cfg := fun hk => by simp [(hcfg hk).1] at hb
      exact (raiseStatus_fatal e.kind s.regs.status).trans (by simp [hkind])
    have haccept (i : Instr) : acceptError i (Machine.raise e s) = acceptError i s :=
      acceptError_congr i rfl hfatal (raiseStatus_configured e.kind s.regs.status) rfl rfl rfl rfl
    rw [commandLatched_congr (s := s) (t := Machine.raise e s) rfl haccept]
    exact h.latched hb
  topology hc := by
    have hconf : s.regs.status.configured = true := (raiseStatus_configured e.kind s.regs.status).symm.trans hc
    have hkind : e.kind ≠ .cfg := fun hk => by simp [(hcfg hk).2] at hconf
    obtain ⟨hok, hfatal⟩ := h.topology hconf
    exact ⟨hok, (raiseStatus_fatal e.kind s.regs.status).trans (by simp [hkind, hfatal])⟩
  fatal hf := by
    have hor := (raiseStatus_fatal e.kind s.regs.status).symm.trans hf
    rw [Bool.or_eq_true, decide_eq_true_eq] at hor
    refine (errFlag_raiseStatus e.kind .cfg s.regs.status).trans ?_
    obtain hf | hk := hor
    · have hflag : errFlag .cfg s.regs.status = true := h.fatal hf
      rw [hflag, Bool.true_or]
    · simp [hk]
  errors := errorRecordWf_raise e h.errors

/-- An error that acceptance answers on an idle unit. -/
theorem Sound.refuse {i : Instr} {e : ErrRecord} (hb : s.regs.status.busy = false) (he : acceptError i s = some e) :
    Sound (Machine.raise e s) := by
  refine h.raise fun hk => ⟨hb, ?_⟩
  obtain rfl | rfl | rfl | rfl | ⟨hconf, -⟩ := acceptError_cases he
  case inr.inr.inr.inr => exact hconf
  all_goals cases hk

theorem Sound.latch {w : Word} {i : Instr} (hi : decode w = .ok i) (he : acceptError i s = none) :
    Sound (latch w s) where
  params := h.params
  layers := h.layers
  arrays := h.arrays
  memory := h.memory
  inputs := h.inputs
  stale _ := rfl
  latched _ := (commandLatched_iff _).2 ⟨i, hi, (acceptError_latch i w s).trans he⟩
  topology := h.topology
  fatal := h.fatal
  errors := by
    obtain ⟨hcode, hinfo, hflags⟩ | ⟨k, hk, hcode, hflag⟩ := h.errors
    · exact .inl ⟨hcode, hinfo, fun k hk => by cases k <;> exact hflags _ hk⟩
    · exact .inr ⟨k, hk, hcode, (sticky_latch w s).flags k hflag⟩

/-- After a command other than SRST the unit is configured only if it was, or if INIT has just checked it. -/
theorem Sound.topology_of_accepted {i : Instr} (hi : i ≠ .srst) (he : acceptError i s = none)
    (hc : (effectOf i s).regs.status.configured = true) : cfgError s = none ∧ s.regs.status.fatal = false := by
  obtain ⟨hfatal, -, -, -, -, hlast⟩ := (acceptError_eq_none i s).1 he
  refine ⟨?_, hfatal.resolve_right hi⟩
  by_cases hinit : i = .init
  · subst hinit
    simpa [lastChecks] using hlast
  · exact (h.topology ((retains_effectOf hinit hi s).configured.symm.trans hc)).1

/-- Completion of an accepted command. -/
theorem Sound.finish_effectOf {i : Instr} (he : acceptError i s = none) : Sound (finish (effectOf i s)) := by
  have harrays : ArraysWf (effectOf i s).arr := arraysWf_effectOf i h.arrays
  by_cases hi : i = .srst
  · subst hi
    exact h.of_reset rfl rfl harrays rfl rfl rfl
  · have htopology := h.topology_of_accepted hi he
    have htouches := touches_effectOf hi s
    obtain ⟨-, hcode, hinfo, hfatal, hflags⟩ := completed_keeps_record hi s
    have herrors : ErrorRecordWf (finish (effectOf i s)).regs := by
      rw [ErrorRecordWf, hcode, hinfo]
      simp only [hflags]
      exact h.errors
    have hcfg : (finish (effectOf i s)).regs.status.eCfg = s.regs.status.eCfg := hflags .cfg
    generalize effectOf i s = u at *
    obtain ⟨a, d, co, br, res, sel, o, c, rfl⟩ := htouches
    exact ⟨h.params, h.layers, harrays, h.memory, h.inputs, fun _ => rfl, fun hb => absurd hb Bool.noConfusion,
      htopology, h.fatal, herrors⟩

theorem Sound.completeStep : ∃ t, completeStep s = .next t ∧ Sound t := by
  cases hb : s.regs.status.busy with
  | false => exact ⟨s, completeStep_idle hb, h⟩
  | true =>
    obtain ⟨i, hi, he⟩ := (commandLatched_iff s).1 (h.latched hb)
    exact ⟨_, by rw [Machine.completeStep, if_pos hb, hi], h.finish_effectOf he⟩

/-- A listing line of a command. -/
theorem Sound.exec {w : Word} {i : Instr} (hi : decode w = .ok i) : ∃ t, exec i s = .next t ∧ Sound t := by
  rw [exec_eq_issue]
  obtain ⟨-, h'⟩ | ⟨e, hb, he, h'⟩ | ⟨-, he, h'⟩ := issue_cases i (effectOf i) s
  · exact ⟨_, h', h.raise nofun⟩
  · exact ⟨_, h', h.refuse hb he⟩
  · have hlatch := h.latch (encode_of_decode hi ▸ hi) he
    exact ⟨_, h', hlatch.finish_effectOf ((acceptError_latch i _ s).trans he)⟩

/-! ### The register port (R21) -/

theorem Sound.hostRead (off width : ℕ) : Sound (hostRead off width s) := by
  obtain ⟨r, -, h'⟩ | ⟨sub, -, h'⟩ := hostRead_cases off width s
  · exact h' ▸ h.answer _
  · have hraise : Sound (Machine.raise (accessError sub off) s) := h.raise nofun
    exact h' ▸ hraise.answer 0

theorem Sound.acceptWord (hb : s.regs.status.busy = false) (w : Word) : Sound (acceptWord w s) := by
  obtain ⟨h', -⟩ | ⟨i, e, -, he, h'⟩ | ⟨i, hi, he, h'⟩ := acceptWord_cases w s
  · exact h' ▸ h.raise nofun
  · exact h' ▸ h.refuse hb he
  · exact h' ▸ h.latch hi he

theorem Sound.writePort (v : Word) : Sound (writePort v s) := by
  unfold Machine.writePort
  split
  · next e _ =>
    have harrays := arraysWf_writeElement h.arrays e v
    obtain ⟨a, ha⟩ := writeElement_frame e v s
    rw [ha] at harrays ⊢
    exact h.of_same_regs rfl rfl harrays h.memory h.inputs h.stale
  · exact h

/-- A write that the port lets through: check 2 says the unit is idle, check 4 that a locked register is not written
while CONFIGURED = 1. -/
theorem Sound.writeReg {r : Reg} (hok : regError true r s = none) (v : Word) : Sound (writeReg r v s) := by
  have hb := idle_of_regError_write hok
  have hlock (hl : regLocked r = true) (hc : s.regs.status.configured = true) : False :=
    absurd (regLocked_of_regError hc hok) (by simp [hl])
  cases r with
  | cmd => exact h.acceptWord hb v
  | adata => exact h.writePort v
  | ctrl | nlayers => exact h.of_register hb rfl rfl rfl rfl fun hc => (hlock rfl hc).elim
  | desc l f => exact h.of_register hb rfl rfl rfl List.length_set fun hc => (hlock rfl hc).elim
  | srcBase | codecIn | asel | aidx => exact h.of_register hb rfl rfl rfl rfl fun _ => ⟨rfl, rfl⟩
  | _ => exact h

theorem Sound.hostWrite (off width : ℕ) (v : Word) : Sound (hostWrite off width v s) := by
  obtain ⟨r, hr, h'⟩ | ⟨sub, -, h'⟩ := hostWrite_cases off width v s
  · obtain ⟨-, -, -, hok⟩ := portCheck_eq_ok.1 hr
    exact h' ▸ h.writeReg hok v
  · exact h' ▸ h.raise nofun

/-! ### The step -/

/-- A listing line, its word a command or not. -/
theorem Sound.step_command (w : Word) : ∃ t, step (given (.command w) s) = .next t ∧ Sound t := by
  cases hd : decode w with
  | ok i =>
    rw [Machine.step_command hd]
    exact h.exec hd
  | error d =>
    refine ⟨_, step_command_illegal hd s, ?_⟩
    split <;> exact h.raise nofun

theorem Sound.step_given {e : Input} (he : inputWf e = true) : ∃ t, step (given e s) = .next t ∧ Sound t := by
  cases e with
  | regRead off width => exact ⟨_, step_regRead off width s, h.hostRead off width⟩
  | regWrite off width v => exact ⟨_, step_regWrite off width v s, h.hostWrite off width v⟩
  | command w => exact h.step_command w
  | complete => exact h.completeStep
  | hwReset a => exact ⟨_, rfl, h.hardReset (of_decide_eq_true he)⟩
  | tmemWrite a b => exact ⟨_, step_tmemWrite a b s, h.platformStore a b⟩

end Keeps

theorem step_of_no_inputs {s : State} (h : s.inputs = []) : step s = completeStep s := by
  rw [step, fetch, h]

/-- Settles O56: with no input left the unit completes what it runs; otherwise it takes the next input. -/
theorem stepKeepsInv : Obligations.StepKeepsInv := by
  intro s hinv
  simp only [inv_iff_sound] at hinv ⊢
  cases hs : s.inputs with
  | nil =>
    rw [step_of_no_inputs hs]
    exact hinv.completeStep
  | cons e rest =>
    obtain ⟨he, hrest⟩ := List.forall_mem_cons.1 (hs ▸ hinv.inputs)
    have hgiven : s = given e { s with inputs := rest } := by rw [given, ← hs]
    rw [hgiven]
    exact (hinv.drop_inputs hrest).step_given he

end Sys2Proof.Machine
end

section
/-! The ranges of the arrays (spec/10_state.md R48 to R54, spec/70_reset_and_hazards.md R203): a store at an index in
range keeps them, the indices that the commands and the array port store at are in range, and so every step keeps
them. -/

namespace Sys2Proof.Machine

/-! ### One store, array by array -/

theorem keysBelow_nil {w rows cols : ℕ} : KeysBelow rows cols ([] : Table w) := nofun

theorem keysBelow_cellSet {w rows cols : ℕ} {t : Table w} (h : KeysBelow rows cols t) {k : ℕ × ℕ} (hrow : k.1 < rows)
    (hcol : k.2 < cols) (x : BitVec w) : KeysBelow rows cols (cellSet pairLt k x t) := by
  intro c hc
  obtain ⟨rfl, -⟩ | hc := mem_cellSet hc
  · exact ⟨hrow, hcol⟩
  · exact h c hc

/-- The element lies in its array (R48 to R54). -/
def Element.InArray (p : Params) (e : Element) : Prop :=
  match e with
  | .v l i => l < p.maxLayers ∧ i < p.maxNeurons
  | .rf l i => l < p.maxLayers ∧ i < p.maxNeurons
  | .th l i => l < p.maxLayers ∧ i < p.maxNeurons
  | .dk l i => l < p.maxLayers ∧ i < p.maxNeurons
  | .sum i => i < p.maxNeurons
  | .counts i c => i < p.maxNeurons ∧ c < p.nChunks
  | .sb _ t b => t < p.tau ∧ b < p.rowBytes

section Setters

variable {p : Params} {s : State} (h : ArraysInRange p s.arr)
include h

theorem arraysInRange_setV {l i : ℕ} (he : (Element.v l i).InArray p) (x : Word) :
    ArraysInRange p (s.setV l i x).arr := by
  obtain ⟨hv, hrest⟩ := h
  exact ⟨keysBelow_cellSet hv he.1 he.2 x, hrest⟩

theorem arraysInRange_setRf {l i : ℕ} (he : (Element.rf l i).InArray p) (x : Bit) :
    ArraysInRange p (s.setRf l i x).arr := by
  obtain ⟨hv, hrf, hrest⟩ := h
  exact ⟨hv, keysBelow_cellSet hrf he.1 he.2 x, hrest⟩

theorem arraysInRange_setTh {l i : ℕ} (he : (Element.th l i).InArray p) (x : Half) :
    ArraysInRange p (s.setTh l i x).arr := by
  obtain ⟨hv, hrf, hth, hrest⟩ := h
  exact ⟨hv, hrf, keysBelow_cellSet hth he.1 he.2 x, hrest⟩

theorem arraysInRange_setDk {l i : ℕ} (he : (Element.dk l i).InArray p) (x : Half) :
    ArraysInRange p (s.setDk l i x).arr := by
  obtain ⟨hv, hrf, hth, hdk, hrest⟩ := h
  exact ⟨hv, hrf, hth, keysBelow_cellSet hdk he.1 he.2 x, hrest⟩

theorem arraysInRange_setSum {i : ℕ} (he : (Element.sum i).InArray p) (x : Word) :
    ArraysInRange p (s.setSum i x).arr := by
  obtain ⟨hv, hrf, hth, hdk, hsum, hrest⟩ := h
  exact ⟨hv, hrf, hth, hdk, keysBelow_cellSet (k := (0, i)) hsum Nat.zero_lt_one he x, hrest⟩

theorem arraysInRange_setCount {i c : ℕ} (he : (Element.counts i c).InArray p) (x : Word) :
    ArraysInRange p (s.setCount i c x).arr := by
  obtain ⟨hv, hrf, hth, hdk, hsum, hcounts, hrest⟩ := h
  exact ⟨hv, hrf, hth, hdk, hsum, keysBelow_cellSet hcounts he.1 he.2 x, hrest⟩

theorem arraysInRange_setSb {k : Buf} {t b : ℕ} (he : (Element.sb k t b).InArray p) (x : Byte) :
    ArraysInRange p (s.setSb k t b x).arr := by
  obtain ⟨hv, hrf, hth, hdk, hsum, hcounts, hsb0, hsb1⟩ := h
  cases k with
  | sb0 => exact ⟨hv, hrf, hth, hdk, hsum, hcounts, keysBelow_cellSet hsb0 he.1 he.2 x, hsb1⟩
  | sb1 => exact ⟨hv, hrf, hth, hdk, hsum, hcounts, hsb0, keysBelow_cellSet hsb1 he.1 he.2 x⟩

theorem arraysInRange_writeElement {e : Element} (he : e.InArray p) (v : Word) :
    ArraysInRange p (writeElement e v s).arr := by
  cases e with
  | v l i => exact arraysInRange_setV h he v
  | rf l i => exact arraysInRange_setRf h he _
  | th l i => exact arraysInRange_setTh h he _
  | dk l i => exact arraysInRange_setDk h he _
  | sum i => exact arraysInRange_setSum h he v
  | counts i c => exact arraysInRange_setCount h he v
  | sb k t b => exact arraysInRange_setSb h he _

end Setters

/-! ### The element that the array port selects (R34, R36) -/

/-- The bounds of a selection are those of the array it selects from. -/
theorem portElement_inArray {p : Params} (hp : p.Valid) {a l x : ℕ} (ha : a < 8) (hx : x < portBound p a)
    (hl : a < 4 → l < p.maxLayers) : (portElement p a l x).InArray p := by
  obtain ⟨-, ⟨-, hchunks, -⟩, ⟨hneurons, -⟩, -⟩ := hp
  have hrow : 0 < p.rowBytes := Nat.div_pos (by omega) (by decide)
  have hrows {b n : ℕ} (hb : 0 < b) (hn : x < n * b) : x / b < n ∧ x % b < b :=
    ⟨(Nat.div_lt_iff_lt_mul hb).2 hn, Nat.mod_lt x hb⟩
  obtain hlow | rfl | rfl | rfl | rfl : a < 4 ∨ a = 4 ∨ a = 5 ∨ a = 6 ∨ a = 7 := by omega
  · interval_cases a <;> exact ⟨hl hlow, hx⟩
  · exact hx
  · exact hrows hchunks hx
  · exact hrows hrow hx
  · exact hrows hrow hx

theorem inArray_of_portSelect {s : State} (hp : s.params.Valid) {e : Element} (h : portSelect s = .ok e) :
    e.InArray s.params := by
  rw [portSelect_eq] at h
  split at h
  · cases h
  · split at h
    · next hsel =>
      obtain ⟨ha, hx, hl, -⟩ := hsel
      exact Except.ok.inj h ▸ portElement_inArray hp ha hx hl
    · cases h

/-! ### What INIT has checked of the sizes (spec/45_pipeline.md R157) -/

/-- The layers and their neurons fit the arrays, and a Conv layer's neurons are its output positions. -/
structure Sized (s : State) : Prop where
  nonempty : 0 < s.nLayers
  layers : s.nLayers ≤ s.params.maxLayers
  neurons : ∀ l < s.nLayers, s.neurons l ≤ s.params.maxNeurons
  geometry : ∀ l < s.nLayers, s.kind l = .conv → s.filters l * s.outSide l ^ 2 = s.neurons l

/-- The checks sub 4 and sub 6 of a layer that passes all. -/
theorem sizes_of_layerCfgError {s : State} {l : ℕ} (h : layerCfgError l s = none) :
    s.neurons l ≤ s.params.maxNeurons ∧ (s.kind l = .conv → s.filters l * s.outSide l ^ 2 = s.neurons l) := by
  unfold layerCfgError at h
  split_ifs at h with _ _ hneurons _ hgeometry
  refine ⟨by omega, fun hk => ?_⟩
  simp only [badGeometry, hk, true_and, decide_eq_true_eq, not_or, not_not] at hgeometry
  obtain ⟨-, -, -, -, hpositions⟩ := hgeometry
  rw [sq, hpositions]

theorem sized_of_cfgError {s : State} (h : cfgError s = none) : Sized s := by
  unfold cfgError at h
  split at h
  · cases h
  · next hcount =>
    have hlayer (l : ℕ) (hl : l < s.nLayers) := sizes_of_layerCfgError
      (Option.map_eq_none_iff.1 (List.findSome?_eq_none_iff.1 h l (List.mem_range.2 hl)))
    exact ⟨by omega, by omega, fun l hl => (hlayer l hl).1, fun l hl => (hlayer l hl).2⟩

/-- The last layer of a configured unit is one of its layers. -/
theorem Sized.lastLayer_lt {s : State} (h : Sized s) : s.lastLayer < s.nLayers := Nat.sub_one_lt h.nonempty.ne'

/-- A layer's inputs are the neurons of a layer (spec/43_accumulate.md R135). -/
theorem Sized.nIn_le {s : State} (h : Sized s) {l : ℕ} (hl : l < s.nLayers) : s.nIn l ≤ s.params.maxNeurons := by
  rw [nIn_eq_neurons]
  exact h.neurons _ (by omega)

/-- An event of a Conv layer reaches only the layer's own neurons (R140). -/
theorem Sized.convTargets_lt {s : State} (h : Sized s) {l : ℕ} (hl : l < s.nLayers) (hk : s.kind l = .conv) {j : ℕ}
    {p : ℕ × ℕ} (hp : p ∈ s.convTargets l j) : p.1 < s.neurons l := by
  obtain ⟨f, hf, y, hy, x, hx, -, rfl⟩ := (mem_convTargets_iff_position s l j).1 hp
  exact h.geometry l hl hk ▸ position_lt hf hy hx

/-! ### The relation that the effects of the commands keep -/

/-- `t` has the parameters, NLAYERS and the descriptors of `s`, and no array of `t` holds an element outside its
ranges. -/
structure Bounded (s t : State) : Prop where
  params : t.params = s.params
  nLayers : t.nLayers = s.nLayers
  desc : t.desc = s.desc
  arrays : ArraysInRange s.params t.arr

theorem Bounded.refl {s : State} (h : ArraysInRange s.params s.arr) : Bounded s s := ⟨rfl, rfl, rfl, h⟩

section Keeps

variable {s t : State}

theorem Bounded.foldl {α : Type} {f : State → α → State} {xs : List α} (h : Bounded s t)
    (hf : ∀ u, ∀ x ∈ xs, Bounded s u → Bounded s (f u x)) : Bounded s (xs.foldl f t) := foldl_inv xs hf t h

/-- A loop over the numbers below `n`. -/
theorem Bounded.foldl_range {f : State → ℕ → State} {n : ℕ} (h : Bounded s t)
    (hf : ∀ u, ∀ i < n, Bounded s u → Bounded s (f u i)) : Bounded s ((List.range n).foldl f t) :=
  h.foldl fun u i hi => hf u i (List.mem_range.1 hi)

variable (h : Bounded s t)
include h

theorem Bounded.neurons (l : ℕ) : t.neurons l = s.neurons l := by rw [State.neurons, h.desc, State.neurons]

theorem Bounded.nIn (l : ℕ) : t.nIn l = s.nIn l := by rw [nIn_eq_neurons, nIn_eq_neurons, h.neurons]

theorem Bounded.kind (l : ℕ) : t.kind l = s.kind l := by rw [State.kind, h.desc, State.kind]

theorem Bounded.lastLayer : t.lastLayer = s.lastLayer := by rw [State.lastLayer, h.nLayers, State.lastLayer]

/-- The sizes are those of the parameters and the descriptors. -/
theorem Bounded.sized (hs : Sized s) : Sized t where
  nonempty := h.nLayers ▸ hs.nonempty
  layers := h.nLayers ▸ h.params ▸ hs.layers
  neurons l hl := by
    rw [h.neurons, h.params]
    exact hs.neurons l (h.nLayers ▸ hl)
  geometry l hl hk := by
    rw [State.filters, State.outSide, State.inSide, State.kSide, h.desc, h.neurons]
    exact hs.geometry l (h.nLayers ▸ hl) (h.kind l ▸ hk)

/-! ### Single updates -/

theorem Bounded.setV {l i : ℕ} (hl : l < s.params.maxLayers) (hi : i < s.params.maxNeurons) (x : Word) :
    Bounded s (t.setV l i x) := ⟨h.params, h.nLayers, h.desc, arraysInRange_setV h.arrays ⟨hl, hi⟩ x⟩

theorem Bounded.setRf {l i : ℕ} (hl : l < s.params.maxLayers) (hi : i < s.params.maxNeurons) (x : Bit) :
    Bounded s (t.setRf l i x) := ⟨h.params, h.nLayers, h.desc, arraysInRange_setRf h.arrays ⟨hl, hi⟩ x⟩

theorem Bounded.setTh {l i : ℕ} (hl : l < s.params.maxLayers) (hi : i < s.params.maxNeurons) (x : Half) :
    Bounded s (t.setTh l i x) := ⟨h.params, h.nLayers, h.desc, arraysInRange_setTh h.arrays ⟨hl, hi⟩ x⟩

theorem Bounded.setDk {l i : ℕ} (hl : l < s.params.maxLayers) (hi : i < s.params.maxNeurons) (x : Half) :
    Bounded s (t.setDk l i x) := ⟨h.params, h.nLayers, h.desc, arraysInRange_setDk h.arrays ⟨hl, hi⟩ x⟩

theorem Bounded.setSum {i : ℕ} (hi : i < s.params.maxNeurons) (x : Word) : Bounded s (t.setSum i x) :=
  ⟨h.params, h.nLayers, h.desc, arraysInRange_setSum h.arrays hi x⟩

theorem Bounded.setCount {i c : ℕ} (hi : i < s.params.maxNeurons) (hc : c < s.params.nChunks) (x : Word) :
    Bounded s (t.setCount i c x) := ⟨h.params, h.nLayers, h.desc, arraysInRange_setCount h.arrays ⟨hi, hc⟩ x⟩

/-- The byte of a neuron's bit lies in its row (R54, R110). -/
theorem Bounded.sbSet {k : Buf} {n r : ℕ} (hn : n < s.params.maxNeurons) (hr : r < s.params.tau) (x : Bool) :
    Bounded s (t.sbSet k n r x) := by
  have hbyte : n / 8 < s.params.rowBytes := by
    rw [Params.rowBytes]
    omega
  have harrays := arraysInRange_setSb (k := k) h.arrays ⟨hr, hbyte⟩ (putBit (t.sbAt k r (n / 8)) (n % 8) x)
  cases k <;> exact ⟨h.params, h.nLayers, h.desc, harrays⟩

theorem Bounded.orOvf (o : Bool) : Bounded s (t.orOvf o) := ⟨h.params, h.nLayers, h.desc, h.arrays⟩

theorem Bounded.swap : Bounded s (swapEffect t) := ⟨h.params, h.nLayers, h.desc, h.arrays⟩

theorem Bounded.memRead (a : ℕ) : Bounded s (t.memRead a).2 := by
  obtain ⟨d, hd⟩ := memRead_frame t a
  rw [hd]
  exact ⟨h.params, h.nLayers, h.desc, h.arrays⟩

/-! ### The shared operations -/

theorem Bounded.mapLanes {l n : ℕ} (hl : l < s.params.maxLayers) (hn : n ≤ s.params.maxNeurons)
    (f : ℕ → Option (Word × Bool)) : Bounded s (mapLanes l n f t) := by
  refine h.foldl_range fun u i hi hu => ?_
  cases f i with
  | none => exact hu
  | some r => exact (hu.setV hl (hi.trans_le hn) r.1).orOvf r.2

theorem Bounded.addSum {i : ℕ} (hi : i < s.params.maxNeurons) (x : ℤ) : Bounded s (addSum i x t) :=
  (h.setSum hi _).orOvf _

theorem Bounded.loadSums {ts : List (ℕ × ℕ)} (hts : ∀ p ∈ ts, p.1 < s.params.maxNeurons) : Bounded s (loadSums ts t) :=
  h.foldl fun _ p hp hu => (hu.memRead p.2).setSum (hts p hp) _

theorem Bounded.accumulateSums {ts : List (ℕ × ℕ)} (hts : ∀ p ∈ ts, p.1 < s.params.maxNeurons) :
    Bounded s (accumulateSums ts t) :=
  h.foldl fun _ p hp hu => (hu.memRead p.2).addSum (hts p hp) _

/-! ### The effects of the commands, on a configuration whose sizes fit -/

theorem Bounded.zero : Bounded s (zeroEffect t) := by
  obtain ⟨-, -, hrest⟩ := h.arrays
  exact ⟨h.params, h.nLayers, h.desc, keysBelow_nil, keysBelow_nil, hrest⟩

theorem Bounded.vclr : Bounded s (vclrEffect t) := by
  obtain ⟨hv, hrf, hth, hdk, -, hrest⟩ := h.arrays
  exact ⟨h.params, h.nLayers, h.desc, hv, hrf, hth, hdk, keysBelow_nil, hrest⟩

theorem Bounded.clrcnt : Bounded s (clrcntEffect t) := by
  obtain ⟨hv, hrf, hth, hdk, hsum, -, hrest⟩ := h.arrays
  exact ⟨h.params, h.nLayers, h.desc, hv, hrf, hth, hdk, hsum, keysBelow_nil, hrest⟩

theorem Bounded.classify : Bounded s (classifyEffect t) := ⟨h.params, h.nLayers, h.desc, h.arrays⟩

section Layer

variable (hs : Sized s) {l : ℕ} (hl : l < s.nLayers)
include hs hl

/-- The lanes of a layer. -/
theorem Bounded.layerLanes (f : ℕ → Option (Word × Bool)) : Bounded s (Machine.mapLanes l (t.neurons l) f t) :=
  h.mapLanes (hl.trans_le hs.layers) (h.neurons l ▸ hs.neurons l hl) f

theorem Bounded.vcmp : Bounded s (vcmpEffect l t) :=
  h.foldl_range fun _ _ hi hu => hu.setRf (hl.trans_le hs.layers) (hi.trans_le (h.neurons l ▸ hs.neurons l hl)) _

theorem Bounded.vpack {r : ℕ} (hr : r < s.params.tau) : Bounded s (vpackEffect l r t) :=
  h.foldl_range fun _ _ hi hu => hu.sbSet (hi.trans_le (h.neurons l ▸ hs.neurons l hl)) hr _

/-- A bias goes to each neuron of the layer, whichever its address (R136). -/
theorem Bounded.loadBiases (addr : ℕ → ℕ) :
    Bounded s (Machine.loadSums ((List.range (t.neurons l)).map fun i => (i, addr i)) t) := by
  refine h.loadSums fun p hp => ?_
  obtain ⟨i, hi, rfl⟩ := List.mem_map.1 hp
  exact (List.mem_range.1 hi).trans_le (h.neurons l ▸ hs.neurons l hl)

theorem Bounded.vbias : Bounded s (vbiasEffect l t) := by
  unfold vbiasEffect
  split
  · exact h.foldl_range fun _ _ hi hu => hu.setSum (hi.trans_le (h.neurons l ▸ hs.neurons l hl)) 0
  · exact h.loadBiases hs hl _
  · exact h.loadBiases hs hl _
  · exact h

theorem Bounded.evacc {j : ℕ} (hj : j < s.nIn l) : Bounded s (evaccEffect l j t) := by
  have hneurons := h.neurons l ▸ hs.neurons l hl
  unfold evaccEffect
  split
  · exact h.addSum (hj.trans_le (hs.nIn_le hl)) _
  · refine h.accumulateSums fun p hp => ?_
    obtain ⟨i, hi, rfl⟩ := List.mem_map.1 hp
    exact (List.mem_range.1 hi).trans_le hneurons
  · next hk =>
    exact h.accumulateSums fun p hp => ((h.sized hs).convTargets_lt (h.nLayers ▸ hl) hk hp).trans_le hneurons
  · exact h

theorem Bounded.accum (r : ℕ) : Bounded s (accumEffect l r t) := by
  refine (h.vbias hs hl).foldl_range fun u j hj hu => ?_
  unfold eventStep
  split
  · exact hu.evacc hs hl (h.nIn l ▸ hj)
  · exact hu

theorem Bounded.decay : Bounded s (decayEffect l t) := by
  unfold decayEffect
  split
  · exact h
  · exact h.layerLanes hs hl _

theorem Bounded.lifstep {r : ℕ} (hr : r < s.params.tau) : Bounded s (lifstepEffect l r t) :=
  ((((h.accum hs hl r).decay hs hl).layerLanes hs hl _).vcmp hs hl |>.layerLanes hs hl _).vpack hs hl hr

theorem Bounded.layer : Bounded s (layerEffect l t) :=
  h.foldl_range fun _ _ hr hu => hu.lifstep hs hl (h.params ▸ hr)

theorem Bounded.initLayer : Bounded s (initLayer l t) :=
  h.foldl_range fun _ _ hi hu =>
    have hi := hi.trans_le (h.neurons l ▸ hs.neurons l hl)
    (hu.setTh (hl.trans_le hs.layers) hi _).setDk (hl.trans_le hs.layers) hi _

end Layer

section Run

variable (hs : Sized s)
include hs

theorem Bounded.init : Bounded s (initEffect t) := by
  have hlayers : Bounded s ((List.range t.nLayers).foldl (fun u l => Machine.initLayer l u) t) :=
    h.foldl_range fun _ _ hl hu => hu.initLayer hs (h.nLayers ▸ hl)
  exact ⟨hlayers.params, hlayers.nLayers, hlayers.desc, hlayers.arrays⟩

theorem Bounded.loadch (c k : ℕ) : Bounded s (loadchEffect c k t) :=
  h.foldl_range fun _ _ hr hu => hu.foldl_range fun _ _ hn hu =>
    (hu.memRead _).sbSet (hn.trans_le (h.neurons 0 ▸ hs.neurons 0 hs.nonempty)) (h.params ▸ hr) _

theorem Bounded.count {c : ℕ} (hc : c < s.params.nChunks) : Bounded s (countEffect c t) := by
  refine h.foldl_range fun u r _ hu => hu.foldl_range fun u' i hi hu' => ?_
  rw [hu.lastLayer, hu.neurons] at hi
  unfold countBit
  split
  · exact (hu'.setCount (hi.trans_le (hs.neurons _ hs.lastLayer_lt)) hc _).orOvf _
  · exact hu'

theorem Bounded.chunk (k : ℕ) {c : ℕ} (hc : c < s.params.nChunks) : Bounded s (chunkEffect k t c) := by
  have hload := h.loadch hs c k
  have hlayers := hload.foldl_range (f := fun u l => swapEffect (layerEffect l u)) (n := t.nLayers)
    fun _ _ hl hu => (hu.layer hs (h.nLayers ▸ hl)).swap
  exact hlayers.count hs hc

theorem Bounded.run (k : ℕ) : Bounded s (runEffect k t) := by
  have hchunks := h.zero.clrcnt.foldl_range (f := chunkEffect k) (n := t.params.nChunks)
    fun _ _ hc hu => hu.chunk hs k (h.params ▸ hc)
  exact hchunks.classify

end Run

end Keeps

/-! ### Accepted commands -/

/-- A command that needs a configuration, or checks one, runs on sizes that fit (R89, R157, R47). -/
theorem sized_of_accepted {i : Instr} {s : State} (htopology : TopologyHolds s) (he : acceptError i s = none)
    (hi : needsConfigured i = true ∨ i = .init) : Sized s := by
  obtain ⟨-, -, hconf, -, -, hlast⟩ := (acceptError_eq_none i s).1 he
  obtain hi | rfl := hi
  · exact sized_of_cfgError (htopology (hconf hi)).1
  · exact sized_of_cfgError (by simpa [lastChecks] using hlast)

/-- What an accepted command other than SRST stores at lies in range, each command by its operands' ranges (R203). -/
theorem bounded_effectOf {i : Instr} {s : State} (hi : i ≠ .srst) (htopology : TopologyHolds s)
    (he : acceptError i s = none) (harrays : ArraysInRange s.params s.arr) : Bounded s (effectOf i s) := by
  have h := Bounded.refl harrays
  have hsized := sized_of_accepted htopology he
  obtain ⟨-, -, -, hrange, -, -⟩ := (acceptError_eq_none i s).1 he
  cases i with
  | srst => exact absurd rfl hi
  | nop | quant | dequant | sbget => exact ⟨rfl, rfl, rfl, harrays⟩
  | init => exact h.init (hsized (.inr rfl))
  | zero => exact h.zero
  | clrcnt => exact h.clrcnt
  | swap => exact h.swap
  | vclr => exact h.vclr
  | classify => exact h.classify
  | sbset role n t v =>
    obtain ⟨ht, hn⟩ := of_decide_eq_true hrange
    exact h.sbSet hn ht v
  | loadch c k => exact h.loadch (hsized (.inl rfl)) c k
  | vscale l => exact h.layerLanes (hsized (.inl rfl)) (of_decide_eq_true hrange) (vscaleLane s l)
  | vadd l => exact h.layerLanes (hsized (.inl rfl)) (of_decide_eq_true hrange) (vaddLane s l)
  | vsubt l => exact h.layerLanes (hsized (.inl rfl)) (of_decide_eq_true hrange) (vsubtLane s l)
  | vcmp l => exact h.vcmp (hsized (.inl rfl)) (of_decide_eq_true hrange)
  | vpack l t =>
    obtain ⟨hl, ht⟩ := of_decide_eq_true hrange
    exact h.vpack (hsized (.inl rfl)) hl ht
  | vbias l => exact h.vbias (hsized (.inl rfl)) (of_decide_eq_true hrange)
  | evacc l j =>
    obtain ⟨hl, hj⟩ := of_decide_eq_true hrange
    exact h.evacc (hsized (.inl rfl)) hl hj
  | accum l t => exact h.accum (hsized (.inl rfl)) (of_decide_eq_true hrange).1 t
  | lifstep l t =>
    obtain ⟨hl, ht⟩ := of_decide_eq_true hrange
    exact h.lifstep (hsized (.inl rfl)) hl ht
  | layer l => exact h.layer (hsized (.inl rfl)) (of_decide_eq_true hrange)
  | count c => exact h.count (hsized (.inl rfl)) (of_decide_eq_true hrange)
  | run k => exact h.run (hsized (.inl rfl)) k

/-! ### The step -/

/-- No command's effects take an input. -/
theorem effectOf_inputs (i : Instr) (s : State) : (effectOf i s).inputs = s.inputs := by
  by_cases hi : i = .srst
  · subst hi
    rfl
  · obtain ⟨a, d, co, br, res, sel, o, c, h⟩ := touches_effectOf hi s
    rw [h]

section Step

variable {s t : State} (h : InRange s)
include h

/-- A step that takes no further input. -/
theorem inRange_of_arrays (hp : t.params = s.params) (hinputs : t.inputs = s.inputs)
    (harrays : ArraysInRange s.params t.arr) : InRange t := by
  rw [InRange, hp, hinputs]
  exact ⟨harrays, h.2⟩

theorem inRange_raise (e : ErrRecord) : InRange (raise e s) := inRange_of_arrays h rfl rfl h.1

theorem inRange_latch (w : Word) : InRange (latch w s) := inRange_of_arrays h rfl rfl h.1

/-- SRST keeps the arrays; the effects of every other accepted command stay within them. -/
theorem inRange_finish_effectOf {i : Instr} (htopology : TopologyHolds s) (he : acceptError i s = none) :
    InRange (finish (effectOf i s)) := by
  have harrays : ArraysInRange s.params (effectOf i s).arr := by
    by_cases hi : i = .srst
    · subst hi
      exact h.1
    · exact (bounded_effectOf hi htopology he h.1).arrays
  exact inRange_of_arrays h (effectOf_params_tmem i s).1 (effectOf_inputs i s) harrays

theorem inRange_completeStep (hs : Sound s) (hstep : completeStep s = .next t) : InRange t := by
  obtain ⟨-, rfl⟩ | ⟨hb, i, hi, rfl⟩ := completeStep_cases hstep
  · exact h
  · obtain ⟨i', hi', he⟩ := (commandLatched_iff s).1 (hs.latched hb)
    obtain rfl : i' = i := Except.ok.inj (hi'.symm.trans hi)
    exact inRange_finish_effectOf h hs.topology he

theorem inRange_exec (hs : Sound s) {i : Instr} (hstep : exec i s = .next t) : InRange t := by
  rw [exec_eq_issue] at hstep
  obtain ⟨-, h'⟩ | ⟨e, -, -, h'⟩ | ⟨-, he, h'⟩ := issue_cases i (effectOf i) s
  all_goals obtain rfl := Host.Outcome.next.inj (hstep.symm.trans h')
  · exact inRange_raise h _
  · exact inRange_raise h e
  · have htopology : TopologyHolds (latch (encode i) s) := hs.topology
    exact inRange_finish_effectOf (inRange_latch h _) htopology ((acceptError_latch i _ s).trans he)

theorem inRange_hostRead (off width : ℕ) : InRange (hostRead off width s) := by
  obtain ⟨r, -, h'⟩ | ⟨sub, -, h'⟩ := hostRead_cases off width s
  all_goals
    rw [h']
    exact inRange_of_arrays h rfl rfl h.1

theorem inRange_acceptWord (w : Word) : InRange (acceptWord w s) := by
  obtain ⟨h', -⟩ | ⟨i, e, -, -, h'⟩ | ⟨i, -, -, h'⟩ := acceptWord_cases w s
  · exact h' ▸ inRange_raise h _
  · exact h' ▸ inRange_raise h e
  · exact h' ▸ inRange_latch h w

/-- The array port writes the element it selects, which lies in its array (R36). -/
theorem inRange_writePort (hp : s.params.Valid) (v : Word) : InRange (writePort v s) := by
  unfold writePort
  split
  · next e he =>
    have harrays := arraysInRange_writeElement h.1 (inArray_of_portSelect hp he) v
    obtain ⟨a, ha⟩ := writeElement_frame e v s
    rw [ha] at harrays ⊢
    exact inRange_of_arrays h rfl rfl harrays
  · exact h

theorem inRange_writeReg (hp : s.params.Valid) (r : Reg) (v : Word) : InRange (writeReg r v s) := by
  cases r with
  | cmd => exact inRange_acceptWord h v
  | adata => exact inRange_writePort h hp v
  | _ => exact inRange_of_arrays h rfl rfl h.1

theorem inRange_hostWrite (hp : s.params.Valid) (off width : ℕ) (v : Word) : InRange (hostWrite off width v s) := by
  obtain ⟨r, -, h'⟩ | ⟨sub, -, h'⟩ := hostWrite_cases off width v s
  · exact h' ▸ inRange_writeReg h hp r v
  · exact h' ▸ inRange_raise h _

theorem inRange_takesInput (hs : Sound s) {e : Input} (he : inputInRange s.params e = true) (hstep : TakesInput e s t) :
    InRange t := by
  cases e with
  | regRead off width => exact hstep ▸ inRange_hostRead h off width
  | regWrite off width v => exact hstep ▸ inRange_hostWrite h hs.params off width v
  | command w =>
    obtain ⟨i, -, hstep⟩ | ⟨-, ⟨-, rfl⟩ | ⟨-, rfl⟩⟩ := hstep
    · exact inRange_exec h hs hstep
    · exact inRange_raise h _
    · exact inRange_raise h _
  | complete => exact inRange_completeStep h hs hstep
  | hwReset a =>
    obtain rfl : t = hardReset a s := hstep
    exact inRange_of_arrays h rfl rfl (of_decide_eq_true he)
  | tmemWrite a b =>
    obtain rfl : t = platformStore a b s := hstep
    exact inRange_of_arrays h rfl rfl h.1

end Step

/-- Settles O57: a command stores where its operands and INIT's checks allow, the array port at the element it selects,
and a reset leaves contents that are in range. -/
theorem arraysStayInRange : Obligations.ArraysStayInRange := by
  intro s t hinv hrange hstep
  have hs := (inv_iff_sound s).1 hinv
  obtain ⟨-, hstep⟩ | ⟨e, rest, hcons, hstep⟩ := step_cases hstep
  · exact inRange_completeStep hrange hs hstep
  · obtain ⟨harrays, hinputs⟩ := hrange
    obtain ⟨he, hrest⟩ := List.forall_mem_cons.1 (hcons ▸ hinputs)
    obtain ⟨-, hwf⟩ := List.forall_mem_cons.1 (hcons ▸ hs.inputs)
    exact inRange_takesInput (s := { s with inputs := rest }) ⟨harrays, hrest⟩ (hs.drop_inputs hwf) he hstep

end Sys2Proof.Machine
end

section
/-! The two resets (spec/70_reset_and_hazards.md R190 to R193): the state they leave meets the invariant, and what each
register then reads; and the hazard rule R195, what the register port refuses while BUSY = 1. -/

namespace Sys2Proof.Machine

/-! ### The state after reset (R190 to R192) -/

theorem sound_afterReset {p : Params} {a : Arrays} {m : List Host.Cell} (hp : p.Valid) (ha : ArraysWf a)
    (hm : Memory.wf m) : Sound (State.afterReset p a m) where
  params := hp
  layers := List.length_replicate
  arrays := ha
  memory := hm
  inputs := nofun
  stale _ := rfl
  latched := nofun
  topology := nofun
  fatal := nofun
  errors := errorRecordWf_reset _

theorem inRange_afterReset {p : Params} {a : Arrays} (m : List Host.Cell) (ha : ArraysInRange p a) :
    InRange (State.afterReset p a m) := ⟨ha, nofun⟩

/-- Settles O55: no command runs, no error stands and nothing is configured; what the reset leaves is given. -/
theorem invAtReset : Obligations.InvAtReset := by
  have hparams : Config.params.Valid := by decide
  have hzero : ArraysInRange Config.params .zero :=
    ⟨nofun, nofun, nofun, nofun, nofun, nofun, nofun, nofun⟩
  obtain ⟨hm, ha⟩ := reset_wf
  exact ⟨⟨(inv_iff_sound _).2 (sound_afterReset hparams ha hm), inRange_afterReset [] hzero⟩,
    fun p a m hp ha hm => ⟨(inv_iff_sound _).2 (sound_afterReset hp ha hm), inRange_afterReset m⟩⟩

/-! ### SRST and the hardware reset (R156, R193) -/

/-- While BUSY = 0 SRST is accepted, whatever else holds. -/
theorem exec_srst {s : State} (hb : s.regs.status.busy = false) :
    exec .srst s = .next { s with regs := .reset s.params.maxLayers, stale := [] } := by
  rw [exec_eq_issue, issue_accepted hb (acceptError_srst s)]
  rfl

/-- A command issued while BUSY = 1 is refused as an access to CMD and lost (R195). -/
theorem exec_busy {s : State} (hb : s.regs.status.busy = true) (i : Instr) :
    exec i s = .next (refusedAccess 1 0x010 s) := by
  rw [exec_eq_issue, issue_busy hb]
  rfl

theorem step_hwReset (a : Arrays) (s : State) : step (given (.hwReset a) s) = .next (hardReset a s) := rfl

/-- Settles O9: SRST through acceptance or the busy port, the hardware reset through neither. -/
theorem resetsWriteResetValues : Obligations.ResetsWriteResetValues :=
  ⟨fun _ hb => exec_srst hb, fun _ hb => exec_busy hb .srst, fun s a => step_hwReset a s⟩

/-! ### What the registers read after reset (R191) -/

theorem desc_afterReset (p : Params) (a : Arrays) (m : List Host.Cell) (l : ℕ) :
    (State.afterReset p a m).desc l = .zero := by
  rw [State.desc, List.getD_eq_getElem?_getD]
  exact List.getElem?_getD_replicate_default_eq _ p.maxLayers l

theorem statusWord_zero : statusWord .zero = 0 := by decide

theorem readDesc_zero (f : DescField) : readDesc f .zero = 0 := by cases f <;> rfl

/-- After reset ASEL and AIDX select V[0][0]. -/
theorem portSelects_afterReset {p : Params} (hp : p.Valid) (a : Arrays) (m : List Host.Cell) :
    PortSelects (State.afterReset p a m) := by
  obtain ⟨-, -, ⟨hneurons, -⟩, ⟨hlayers, -⟩⟩ := hp
  exact ⟨Nat.zero_lt_succ 7, hneurons, fun _ => hlayers, fun _ => rfl⟩

/-- A bit field of a word, by its weight. -/
theorem toNat_extractLsb'_ofNat {x : ℕ} (hx : x < 2 ^ 32) (lo len : ℕ) :
    ((BitVec.ofNat 32 x).extractLsb' lo len).toNat = x / 2 ^ lo % 2 ^ len := by
  rw [BitVec.extractLsb'_toNat, BitVec.toNat_ofNat, Nat.mod_eq_of_lt hx, Nat.shiftRight_eq_div_pow]

/-- Bits 15:0 and 31:16 of PARAM0 (R37). -/
theorem param0_fields {chunks tau : ℕ} (hchunks : chunks ≤ 256) (htau : tau ≤ 256) :
    ((BitVec.ofNat 32 (chunks * 2 ^ 16 + tau)).extractLsb' 0 16).toNat = tau ∧
    ((BitVec.ofNat 32 (chunks * 2 ^ 16 + tau)).extractLsb' 16 16).toNat = chunks := by
  simp only [toNat_extractLsb'_ofNat (x := chunks * 2 ^ 16 + tau) (by omega)]
  omega

/-- Bits 16:0 and 28:20 of PARAM1, the others 0 (R37). -/
theorem param1_fields {layers neurons : ℕ} (hlayers : layers ≤ 256) (hneurons : neurons ≤ 65536) :
    ((BitVec.ofNat 32 (layers * 2 ^ 20 + neurons)).extractLsb' 0 17).toNat = neurons ∧
    (BitVec.ofNat 32 (layers * 2 ^ 20 + neurons)).extractLsb' 17 3 = 0 ∧
    ((BitVec.ofNat 32 (layers * 2 ^ 20 + neurons)).extractLsb' 20 9).toNat = layers ∧
    (BitVec.ofNat 32 (layers * 2 ^ 20 + neurons)).extractLsb' 29 3 = 0 := by
  simp only [← BitVec.toNat_inj, toNat_extractLsb'_ofNat (x := layers * 2 ^ 20 + neurons) (by omega)]
  have hzero : (0 : BitVec 3).toNat = 0 := rfl
  omega

section AfterReset

variable {p : Params} (a : Arrays) (m : List Host.Cell)

/-- Right after reset a read of any register but ADATA answers it. -/
theorem read_afterReset {r : Reg} (hr : r.Present p.maxLayers) (hd : r ≠ .adata) :
    step (given (.regRead r.offset 32) (State.afterReset p a m)) =
      .next { State.afterReset p a m with rdata := readReg r (State.afterReset p a m) } :=
  congrArg _ (hostRead_offset rfl hr hd)

/-- ADATA reads V[0][0], whatever the reset left there (R192). -/
theorem read_adata_afterReset (hp : p.Valid) :
    step (given (.regRead 0x038 32) (State.afterReset p a m)) =
      .next { State.afterReset p a m with rdata := cellGet a.v (0, 0) } := by
  have hsel := portSelects_afterReset hp a m
  have hread := hostRead_of_ok (portCheck_offset_ok (adata_present _) (regError_adata_ok (isWrite := false) rfl hsel))
  rw [readReg_adata hsel] at hread
  exact congrArg _ hread

/-- Every register of every descriptor reads 0 (R38). -/
theorem read_desc_afterReset {l : ℕ} (hl : l < p.maxLayers) (f : DescField) :
    step (given (.regRead (Reg.desc l f).offset 32) (State.afterReset p a m)) =
      .next { State.afterReset p a m with rdata := 0 } := by
  rw [read_afterReset a m (present_desc f hl) nofun, readReg, desc_afterReset, readDesc_zero]

end AfterReset

/-- Settles O8: every register but ADATA reads its field of the reset registers, and SRST writes the same ones. -/
theorem resetRegisterValues : Obligations.ResetRegisterValues := by
  intro p a m hp
  have fixed (r : Reg) (hr : ∀ l f, r ≠ .desc l f) (hd : r ≠ .adata) :=
    read_afterReset (p := p) a m (present_of_ne_desc hr) hd
  obtain ⟨⟨-, htau⟩, ⟨-, -, hchunks⟩, ⟨-, hneurons⟩, ⟨-, hlayers⟩⟩ := id hp
  refine ⟨?_, fun l hl f hf => ?_, ⟨_, fixed .param0 nofun nofun, ?_⟩, ⟨_, fixed .param1 nofun nofun, ?_⟩,
    fun s hb hs => ⟨_, exec_srst hb, by rw [hs]; rfl⟩⟩
  · have hstatus : readReg .status (State.afterReset p a m) = 0 := statusWord_zero
    have hasel : readReg .asel (State.afterReset p a m) = 0 := by simp [readReg, State.afterReset, Regs.reset]
    simp only [List.forall_mem_cons, List.not_mem_nil, false_imp_iff, implies_true, and_true]
    exact ⟨fixed .id nofun nofun, hstatus ▸ fixed .status nofun nofun, fixed .errcode nofun nofun,
      fixed .errinfo nofun nofun, fixed .cmd nofun nofun, fixed .ctrl nofun nofun, fixed .nlayers nofun nofun,
      fixed .srcBase nofun nofun, fixed .codecIn nofun nofun, fixed .codecOut nofun nofun, fixed .bitres nofun nofun,
      fixed .result nofun nofun, hasel ▸ fixed .asel nofun nofun, fixed .aidx nofun nofun,
      read_adata_afterReset a m hp, fixed .param2 nofun nofun⟩
  · have hread := read_desc_afterReset a m hl (descFieldAt f)
    rwa [Reg.offset, index_descFieldAt hf] at hread
  · rw [readReg_param0 hp]
    exact param0_fields hchunks htau
  · rw [readReg_param1 hp]
    exact param1_fields hlayers hneurons

/-! ### While BUSY = 1 (R195) -/

/-- The offsets of the registers that are not in a descriptor. -/
theorem regAt_fixed : ∀ off ∈ [0x000, 0x004, 0x008, 0x00C, 0x010, 0x014, 0x018, 0x01C, 0x020, 0x024, 0x028, 0x02C,
    0x030, 0x034, 0x038, 0x040, 0x044, 0x048], (regAt 0 off).isSome := by decide

/-- Every defined offset is that of a register of the unit (R58). -/
theorem exists_reg_of_definedOffset {p : Params} {off : ℕ} (h : DefinedOffset p off) :
    ∃ r : Reg, off = r.offset ∧ r.Present p.maxLayers := by
  obtain h | h := h
  · obtain ⟨r, hr⟩ := Option.isSome_iff_exists.1 (regAt_fixed off h)
    obtain ⟨hoff, hp⟩ := regAt_eq_some.1 hr
    exact ⟨r, hoff, fun l f e => absurd (hp l f e) l.not_lt_zero⟩
  · obtain ⟨l, hl, f, hoff⟩ := exists_desc_of_range h
    exact ⟨.desc l f, hoff, present_desc f hl⟩

/-- Check 2 lets ID be read in every state. -/
theorem regError_read_id (s : State) : regError false .id s = none := by
  simp [regError, regReadableBusy, portError]

section Busy

variable {s : State} (hb : s.regs.status.busy = true)
include hb

/-- Check 2 refuses every write, and every read but those of ID and STATUS (R21). -/
theorem regError_write_busy (r : Reg) : regError true r s = some 1 := by simp [regError, hb]

theorem regError_read_busy {r : Reg} (hid : r ≠ .id) (hstatus : r ≠ .status) : regError false r s = some 1 := by
  simp [regError, regReadableBusy, hb, hid, hstatus]

end Busy

/-- Settles O11: a defined offset passes check 1, and check 2 comes next. -/
theorem busyRefuses : Obligations.BusyRefuses := by
  intro s off v hb hoff
  obtain ⟨r, rfl, hp⟩ := exists_reg_of_definedOffset hoff
  have hid : Reg.id.Present s.params.maxLayers := present_of_ne_desc nofun
  have hstatus : Reg.status.Present s.params.maxLayers := present_of_ne_desc nofun
  refine ⟨congrArg _ (hostRead_of_ok (portCheck_offset_ok hid (regError_read_id s))),
    ⟨_, congrArg _ (hostRead_of_ok (portCheck_offset_ok hstatus (regError_read_status s)))⟩, fun h0 h4 => ?_, ?_,
    exec_busy hb⟩
  · have hread : regError false r s = some 1 :=
      regError_read_busy hb (fun e => h0 (e ▸ rfl)) (fun e => h4 (e ▸ rfl))
    exact congrArg _ (hostRead_of_error (portCheck_offset_error hp hread))
  · exact congrArg _ (hostWrite_of_error (portCheck_offset_error hp (regError_write_busy hb r)))

end Sys2Proof.Machine
end
